-- ==== Sys2Proof/Word.lean ====
section
/-! DEFINITION. The words the machine computes with: bit strings of fixed width (00_scope.md R8 to R10).
Only the types stand here; bit fields and byte order are in Decode.lean and Machine/. -/

namespace Sys2Proof

/-- A 32-bit value: register contents, addresses, instruction words (10_state.md R20, 30_encoding.md R60). -/
abbrev Word := BitVec 32

/-- A halfword (20_memory.md R43). -/
abbrev Half := BitVec 16

/-- A byte, the smallest addressable unit (10_state.md R32). -/
abbrev Byte := BitVec 8

end Sys2Proof
end

