-- ==== Sys2Proof/Syntax.lean ====
section
/-! DEFINITION. The 55 instructions of MIPS-C (00_scope.md R2), one constructor per row of
spec/opcode_table.json, with the operand fields of 30_encoding.md R61 and R62 in the order of the encoding. -/

namespace Sys2Proof

/-- The number of a general register; every value is legal in every role (30_encoding.md R78). -/
abbrev Reg := BitVec 5

/-- The number of a CP0 register (47_privileged.md R200). -/
abbrev Cp0Reg := BitVec 5

/-- The MIPS-C instructions. Where the field order is base, rt, offset the assembly order is `op rt, offset(base)`
(30_encoding.md R80). -/
inductive Instr where
  -- loads (40_load.md)
  | lb (base rt : Reg) (offset : BitVec 16)
  | lbu (base rt : Reg) (offset : BitVec 16)
  | lh (base rt : Reg) (offset : BitVec 16)
  | lhu (base rt : Reg) (offset : BitVec 16)
  | lw (base rt : Reg) (offset : BitVec 16)
  -- stores (41_store.md)
  | sb (base rt : Reg) (offset : BitVec 16)
  | sh (base rt : Reg) (offset : BitVec 16)
  | sw (base rt : Reg) (offset : BitVec 16)
  -- register-register arithmetic (42_rr_arith.md)
  | add (rs rt rd : Reg)
  | addu (rs rt rd : Reg)
  | sub (rs rt rd : Reg)
  | subu (rs rt rd : Reg)
  | mult (rs rt : Reg)
  | multu (rs rt : Reg)
  | div (rs rt : Reg)
  | divu (rs rt : Reg)
  | slt (rs rt rd : Reg)
  | sltu (rs rt rd : Reg)
  | sll (rt rd : Reg) (s : BitVec 5)
  | srl (rt rd : Reg) (s : BitVec 5)
  | sra (rt rd : Reg) (s : BitVec 5)
  | sllv (rs rt rd : Reg)
  | srlv (rs rt rd : Reg)
  | srav (rs rt rd : Reg)
  | and (rs rt rd : Reg)
  | or (rs rt rd : Reg)
  | xor (rs rt rd : Reg)
  | nor (rs rt rd : Reg)
  -- register-immediate arithmetic (43_ri_arith.md)
  | addi (rs rt : Reg) (imm : BitVec 16)
  | addiu (rs rt : Reg) (imm : BitVec 16)
  | andi (rs rt : Reg) (imm : BitVec 16)
  | ori (rs rt : Reg) (imm : BitVec 16)
  | xori (rs rt : Reg) (imm : BitVec 16)
  | lui (rt : Reg) (imm : BitVec 16)
  | slti (rs rt : Reg) (imm : BitVec 16)
  | sltiu (rs rt : Reg) (imm : BitVec 16)
  -- branches (44_branch.md)
  | beq (rs rt : Reg) (offset : BitVec 16)
  | bne (rs rt : Reg) (offset : BitVec 16)
  | blez (rs : Reg) (offset : BitVec 16)
  | bgtz (rs : Reg) (offset : BitVec 16)
  | bltz (rs : Reg) (offset : BitVec 16)
  | bgez (rs : Reg) (offset : BitVec 16)
  -- jumps (45_jump.md)
  | j (index : BitVec 26)
  | jal (index : BitVec 26)
  | jalr (rs rd : Reg)
  | jr (rs : Reg)
  -- HI/LO transfers (46_transfer.md)
  | mfhi (rd : Reg)
  | mflo (rd : Reg)
  | mthi (rs : Reg)
  | mtlo (rs : Reg)
  -- coprocessor 0 (47_privileged.md)
  | eret
  | mfc0 (rt : Reg) (rd : Cp0Reg)
  | mtc0 (rt : Reg) (rd : Cp0Reg)
  -- traps (48_trap.md); `brk` is BREAK, whose lower-case spelling is a word of Lean's own
  | brk (code : BitVec 20)
  | syscall (code : BitVec 20)
deriving DecidableEq, Repr

end Sys2Proof
end

