-- ==== Sys2Proof/Decode.lean ====
section
/-! DEFINITION. Instruction encoding (30_encoding.md): the byte order of a word, the fields of R61, the decoder by
the opcode map of R71 to R74 with the zero boxes of R76, the encoder by the layouts of R62, and the table of R75. -/

namespace Sys2Proof

/-- The halfword whose byte at the lower address is `b0` (20_memory.md R40). -/
def halfOfBytes (b0 b1 : Byte) : Half := b1 ++ b0

/-- The word whose bytes at rising addresses are `b0` to `b3` (20_memory.md R40, R46). -/
def wordOfBytes (b0 b1 b2 b3 : Byte) : Word := b3 ++ b2 ++ b1 ++ b0

/-- Byte `k` of a word, at the `k`th address of its four (00_scope.md R12). -/
def byteOfWord (w : Word) (k : Nat) : Byte := w.extractLsb' (8 * k) 8

/-- The four bytes of a word at rising addresses (00_scope.md R12). -/
def bytesOfWord (w : Word) : List Byte := [byteOfWord w 0, byteOfWord w 1, byteOfWord w 2, byteOfWord w 3]

/-! ## Fields (R61) -/

/-- Bits 31..26. -/
def opcodeField (w : Word) : BitVec 6 := w.extractLsb' 26 6
/-- Bits 25..21: rs, base, or the sub-opcode of MFC0 and MTC0. -/
def rsField (w : Word) : BitVec 5 := w.extractLsb' 21 5
/-- Bits 20..16: rt, or the sub-opcode of BLTZ and BGEZ. -/
def rtField (w : Word) : BitVec 5 := w.extractLsb' 16 5
/-- Bits 15..11: rd. -/
def rdField (w : Word) : BitVec 5 := w.extractLsb' 11 5
/-- Bits 10..6: the shift amount. -/
def shiftField (w : Word) : BitVec 5 := w.extractLsb' 6 5
/-- Bits 5..0: the function field. -/
def functionField (w : Word) : BitVec 6 := w.extractLsb' 0 6
/-- Bits 15..0: immediate or offset. -/
def immField (w : Word) : BitVec 16 := w.extractLsb' 0 16
/-- Bits 25..0: instr_index. -/
def indexField (w : Word) : BitVec 26 := w.extractLsb' 0 26
/-- Bits 25..6: code. -/
def codeField (w : Word) : BitVec 20 := w.extractLsb' 6 20
/-- Bits 10..0, zero in MFC0 and MTC0. -/
def lowField (w : Word) : BitVec 11 := w.extractLsb' 0 11

/-! ## The decoder -/

/-- Why a word, or a list of bytes, is no instruction (R71 to R76). -/
inductive DecodeError where
  /-- Fewer than four bytes (R60). -/
  | truncated
  /-- The opcode is not in the table of R71. -/
  | noSuchOpcode (opcode : BitVec 6)
  /-- Opcode 000000 and a function field that is not in the table of R72. -/
  | noSuchFunction (function : BitVec 6)
  /-- Opcode 000001 and bits 20..16 other than 00000 and 00001 (R73). -/
  | noSuchBranch (sub : BitVec 5)
  /-- Opcode 010000 and a word that is none of MFC0, MTC0 and ERET (R74). -/
  | noSuchCop0 (sub : BitVec 5)
  /-- A field that the named instruction's layout draws as zero is not zero (R76). -/
  | mustBeZero (mnemonic : String)
deriving DecidableEq, Repr

/-- The instruction, provided the layout's zero boxes are zero (R76). -/
def requireZero (zero : Bool) (mnemonic : String) (i : Instr) : Except DecodeError Instr :=
  if zero then .ok i else .error (.mustBeZero mnemonic)

/-- Layout R: bits 10..6 are zero (R62). -/
def decodeR (mnemonic : String) (i : Reg → Reg → Reg → Instr) (w : Word) : Except DecodeError Instr :=
  requireZero (shiftField w == 0) mnemonic (i (rsField w) (rtField w) (rdField w))

/-- Layout R-SH: bits 25..21 are zero (R62). -/
def decodeShift (mnemonic : String) (i : Reg → Reg → BitVec 5 → Instr) (w : Word) : Except DecodeError Instr :=
  requireZero (rsField w == 0) mnemonic (i (rtField w) (rdField w) (shiftField w))

/-- Layout R-MD: bits 15..6 are zero (R62). -/
def decodeMulDiv (mnemonic : String) (i : Reg → Reg → Instr) (w : Word) : Except DecodeError Instr :=
  requireZero (rdField w == 0 && shiftField w == 0) mnemonic (i (rsField w) (rtField w))

/-- Layout R-MF: bits 25..16 and 10..6 are zero (R62). -/
def decodeMoveFrom (mnemonic : String) (i : Reg → Instr) (w : Word) : Except DecodeError Instr :=
  requireZero (rsField w == 0 && rtField w == 0 && shiftField w == 0) mnemonic (i (rdField w))

/-- Layouts R-MT and R-JR: bits 20..6 are zero (R62). -/
def decodeOneSource (mnemonic : String) (i : Reg → Instr) (w : Word) : Except DecodeError Instr :=
  requireZero (rtField w == 0 && rdField w == 0 && shiftField w == 0) mnemonic (i (rsField w))

/-- Layout R-JALR: bits 20..16 and 10..6 are zero (R62). -/
def decodeJalr (w : Word) : Except DecodeError Instr :=
  requireZero (rtField w == 0 && shiftField w == 0) "JALR" (.jalr (rsField w) (rdField w))

/-- Opcode 000000: the function field selects (R72). -/
def decodeSpecial (w : Word) : Except DecodeError Instr :=
  match functionField w with
  | 0b000000#6 => decodeShift "SLL" .sll w
  | 0b000010#6 => decodeShift "SRL" .srl w
  | 0b000011#6 => decodeShift "SRA" .sra w
  | 0b000100#6 => decodeR "SLLV" .sllv w
  | 0b000110#6 => decodeR "SRLV" .srlv w
  | 0b000111#6 => decodeR "SRAV" .srav w
  | 0b001000#6 => decodeOneSource "JR" .jr w
  | 0b001001#6 => decodeJalr w
  | 0b001100#6 => .ok (.syscall (codeField w))
  | 0b001101#6 => .ok (.brk (codeField w))
  | 0b010000#6 => decodeMoveFrom "MFHI" .mfhi w
  | 0b010001#6 => decodeOneSource "MTHI" .mthi w
  | 0b010010#6 => decodeMoveFrom "MFLO" .mflo w
  | 0b010011#6 => decodeOneSource "MTLO" .mtlo w
  | 0b011000#6 => decodeMulDiv "MULT" .mult w
  | 0b011001#6 => decodeMulDiv "MULTU" .multu w
  | 0b011010#6 => decodeMulDiv "DIV" .div w
  | 0b011011#6 => decodeMulDiv "DIVU" .divu w
  | 0b100000#6 => decodeR "ADD" .add w
  | 0b100001#6 => decodeR "ADDU" .addu w
  | 0b100010#6 => decodeR "SUB" .sub w
  | 0b100011#6 => decodeR "SUBU" .subu w
  | 0b100100#6 => decodeR "AND" .and w
  | 0b100101#6 => decodeR "OR" .or w
  | 0b100110#6 => decodeR "XOR" .xor w
  | 0b100111#6 => decodeR "NOR" .nor w
  | 0b101010#6 => decodeR "SLT" .slt w
  | 0b101011#6 => decodeR "SLTU" .sltu w
  | f => .error (.noSuchFunction f)

/-- Opcode 000001: bits 20..16 select (R73). -/
def decodeRegimm (w : Word) : Except DecodeError Instr :=
  match rtField w with
  | 0b00000#5 => .ok (.bltz (rsField w) (immField w))
  | 0b00001#5 => .ok (.bgez (rsField w) (immField w))
  | sub => .error (.noSuchBranch sub)

/-- Opcode 010000: bits 25..21 select, and ERET is one word (R74). -/
def decodeCop0 (w : Word) : Except DecodeError Instr :=
  match rsField w with
  | 0b00000#5 => requireZero (lowField w == 0) "MFC0" (.mfc0 (rtField w) (rdField w))
  | 0b00100#5 => requireZero (lowField w == 0) "MTC0" (.mtc0 (rtField w) (rdField w))
  | 0b10000#5 => if w = 0x42000018#32 then .ok .eret else .error (.noSuchCop0 0b10000#5)
  | sub => .error (.noSuchCop0 sub)

/-- Layouts I, I-MEM and I-BR (R62). -/
def decodeI (i : Reg → Reg → BitVec 16 → Instr) (w : Word) : Except DecodeError Instr :=
  .ok (i (rsField w) (rtField w) (immField w))

/-- Layout I-BZ: bits 20..16 are zero (R62). -/
def decodeBranchZero (mnemonic : String) (i : Reg → BitVec 16 → Instr) (w : Word) : Except DecodeError Instr :=
  requireZero (rtField w == 0) mnemonic (i (rsField w) (immField w))

/-- The instruction a word is, or why it is none (R71 to R76). -/
def decode (w : Word) : Except DecodeError Instr :=
  match opcodeField w with
  | 0b000000#6 => decodeSpecial w
  | 0b000001#6 => decodeRegimm w
  | 0b000010#6 => .ok (.j (indexField w))
  | 0b000011#6 => .ok (.jal (indexField w))
  | 0b000100#6 => decodeI .beq w
  | 0b000101#6 => decodeI .bne w
  | 0b000110#6 => decodeBranchZero "BLEZ" .blez w
  | 0b000111#6 => decodeBranchZero "BGTZ" .bgtz w
  | 0b001000#6 => decodeI .addi w
  | 0b001001#6 => decodeI .addiu w
  | 0b001010#6 => decodeI .slti w
  | 0b001011#6 => decodeI .sltiu w
  | 0b001100#6 => decodeI .andi w
  | 0b001101#6 => decodeI .ori w
  | 0b001110#6 => decodeI .xori w
  | 0b001111#6 => requireZero (rsField w == 0) "LUI" (.lui (rtField w) (immField w))
  | 0b010000#6 => decodeCop0 w
  | 0b100000#6 => decodeI .lb w
  | 0b100001#6 => decodeI .lh w
  | 0b100011#6 => decodeI .lw w
  | 0b100100#6 => decodeI .lbu w
  | 0b100101#6 => decodeI .lhu w
  | 0b101000#6 => decodeI .sb w
  | 0b101001#6 => decodeI .sh w
  | 0b101011#6 => decodeI .sw w
  | op => .error (.noSuchOpcode op)

/-- The instruction at the head of a list of bytes at rising addresses, and the bytes after it (R60, R46). -/
def decodeBytes (bytes : List Byte) : Except DecodeError (Instr × List Byte) :=
  match bytes with
  | b0 :: b1 :: b2 :: b3 :: rest =>
    match decode (wordOfBytes b0 b1 b2 b3) with
    | .ok i => .ok (i, rest)
    | .error e => .error e
  | _ => .error .truncated

/-- The instruction the decoder reads from an instruction whose bits are `w`, `nbits` of them given, the rest zero. -/
def decodeTableWord (nbits w : Nat) : Option Instr :=
  match decodeBytes (bytesOfWord (BitVec.ofNat 32 (w % 2 ^ nbits))) with
  | .ok (i, _) => some i
  | .error _ => none

/-! ## The encoder (R62) -/

/-- Layouts R, R-MD, R-MF, R-MT, R-JR, R-JALR and R-SH, with the boxes in place. -/
def encodeSpecial (rs rt rd s : BitVec 5) (function : BitVec 6) : Word :=
  0b000000#6 ++ rs ++ rt ++ rd ++ s ++ function

/-- Layouts I, I-MEM, I-BR, I-BZ, I-REGIMM and I-LUI. -/
def encodeI (opcode : BitVec 6) (rs rt : BitVec 5) (imm : BitVec 16) : Word :=
  opcode ++ rs ++ rt ++ imm

/-- Layout J. -/
def encodeJ (opcode : BitVec 6) (index : BitVec 26) : Word := opcode ++ index

/-- Layout R-TRAP. -/
def encodeTrap (code : BitVec 20) (function : BitVec 6) : Word :=
  0b000000#6 ++ code ++ function

/-- Layout C0-MOVE. -/
def encodeCop0Move (sub rt rd : BitVec 5) : Word :=
  0b010000#6 ++ sub ++ rt ++ rd ++ 0b00000000000#11

/-- The word of an instruction (R62, R71 to R74). -/
def encode (i : Instr) : Word :=
  match i with
  | .lb base rt offset => encodeI 0b100000#6 base rt offset
  | .lbu base rt offset => encodeI 0b100100#6 base rt offset
  | .lh base rt offset => encodeI 0b100001#6 base rt offset
  | .lhu base rt offset => encodeI 0b100101#6 base rt offset
  | .lw base rt offset => encodeI 0b100011#6 base rt offset
  | .sb base rt offset => encodeI 0b101000#6 base rt offset
  | .sh base rt offset => encodeI 0b101001#6 base rt offset
  | .sw base rt offset => encodeI 0b101011#6 base rt offset
  | .add rs rt rd => encodeSpecial rs rt rd 0 0b100000#6
  | .addu rs rt rd => encodeSpecial rs rt rd 0 0b100001#6
  | .sub rs rt rd => encodeSpecial rs rt rd 0 0b100010#6
  | .subu rs rt rd => encodeSpecial rs rt rd 0 0b100011#6
  | .mult rs rt => encodeSpecial rs rt 0 0 0b011000#6
  | .multu rs rt => encodeSpecial rs rt 0 0 0b011001#6
  | .div rs rt => encodeSpecial rs rt 0 0 0b011010#6
  | .divu rs rt => encodeSpecial rs rt 0 0 0b011011#6
  | .slt rs rt rd => encodeSpecial rs rt rd 0 0b101010#6
  | .sltu rs rt rd => encodeSpecial rs rt rd 0 0b101011#6
  | .sll rt rd s => encodeSpecial 0 rt rd s 0b000000#6
  | .srl rt rd s => encodeSpecial 0 rt rd s 0b000010#6
  | .sra rt rd s => encodeSpecial 0 rt rd s 0b000011#6
  | .sllv rs rt rd => encodeSpecial rs rt rd 0 0b000100#6
  | .srlv rs rt rd => encodeSpecial rs rt rd 0 0b000110#6
  | .srav rs rt rd => encodeSpecial rs rt rd 0 0b000111#6
  | .and rs rt rd => encodeSpecial rs rt rd 0 0b100100#6
  | .or rs rt rd => encodeSpecial rs rt rd 0 0b100101#6
  | .xor rs rt rd => encodeSpecial rs rt rd 0 0b100110#6
  | .nor rs rt rd => encodeSpecial rs rt rd 0 0b100111#6
  | .addi rs rt imm => encodeI 0b001000#6 rs rt imm
  | .addiu rs rt imm => encodeI 0b001001#6 rs rt imm
  | .andi rs rt imm => encodeI 0b001100#6 rs rt imm
  | .ori rs rt imm => encodeI 0b001101#6 rs rt imm
  | .xori rs rt imm => encodeI 0b001110#6 rs rt imm
  | .lui rt imm => encodeI 0b001111#6 0 rt imm
  | .slti rs rt imm => encodeI 0b001010#6 rs rt imm
  | .sltiu rs rt imm => encodeI 0b001011#6 rs rt imm
  | .beq rs rt offset => encodeI 0b000100#6 rs rt offset
  | .bne rs rt offset => encodeI 0b000101#6 rs rt offset
  | .blez rs offset => encodeI 0b000110#6 rs 0 offset
  | .bgtz rs offset => encodeI 0b000111#6 rs 0 offset
  | .bltz rs offset => encodeI 0b000001#6 rs 0b00000#5 offset
  | .bgez rs offset => encodeI 0b000001#6 rs 0b00001#5 offset
  | .j index => encodeJ 0b000010#6 index
  | .jal index => encodeJ 0b000011#6 index
  | .jalr rs rd => encodeSpecial rs 0 rd 0 0b001001#6
  | .jr rs => encodeSpecial rs 0 0 0 0b001000#6
  | .mfhi rd => encodeSpecial 0 0 rd 0 0b010000#6
  | .mflo rd => encodeSpecial 0 0 rd 0 0b010010#6
  | .mthi rs => encodeSpecial rs 0 0 0 0b010001#6
  | .mtlo rs => encodeSpecial rs 0 0 0 0b010011#6
  | .eret => 0x42000018#32
  | .mfc0 rt rd => encodeCop0Move 0b00000#5 rt rd
  | .mtc0 rt rd => encodeCop0Move 0b00100#5 rt rd
  | .brk code => encodeTrap code 0b001101#6
  | .syscall code => encodeTrap code 0b001100#6

/-! ## The table of R75 -/

/-- The mnemonic of an instruction as spec/opcode_table.json spells it. -/
def Instr.mnemonic (i : Instr) : String :=
  match i with
  | .lb _ _ _ => "LB"
  | .lbu _ _ _ => "LBU"
  | .lh _ _ _ => "LH"
  | .lhu _ _ _ => "LHU"
  | .lw _ _ _ => "LW"
  | .sb _ _ _ => "SB"
  | .sh _ _ _ => "SH"
  | .sw _ _ _ => "SW"
  | .add _ _ _ => "ADD"
  | .addu _ _ _ => "ADDU"
  | .sub _ _ _ => "SUB"
  | .subu _ _ _ => "SUBU"
  | .mult _ _ => "MULT"
  | .multu _ _ => "MULTU"
  | .div _ _ => "DIV"
  | .divu _ _ => "DIVU"
  | .slt _ _ _ => "SLT"
  | .sltu _ _ _ => "SLTU"
  | .sll _ _ _ => "SLL"
  | .srl _ _ _ => "SRL"
  | .sra _ _ _ => "SRA"
  | .sllv _ _ _ => "SLLV"
  | .srlv _ _ _ => "SRLV"
  | .srav _ _ _ => "SRAV"
  | .and _ _ _ => "AND"
  | .or _ _ _ => "OR"
  | .xor _ _ _ => "XOR"
  | .nor _ _ _ => "NOR"
  | .addi _ _ _ => "ADDI"
  | .addiu _ _ _ => "ADDIU"
  | .andi _ _ _ => "ANDI"
  | .ori _ _ _ => "ORI"
  | .xori _ _ _ => "XORI"
  | .lui _ _ => "LUI"
  | .slti _ _ _ => "SLTI"
  | .sltiu _ _ _ => "SLTIU"
  | .beq _ _ _ => "BEQ"
  | .bne _ _ _ => "BNE"
  | .blez _ _ => "BLEZ"
  | .bgtz _ _ => "BGTZ"
  | .bltz _ _ => "BLTZ"
  | .bgez _ _ => "BGEZ"
  | .j _ => "J"
  | .jal _ => "JAL"
  | .jalr _ _ => "JALR"
  | .jr _ => "JR"
  | .mfhi _ => "MFHI"
  | .mflo _ => "MFLO"
  | .mthi _ => "MTHI"
  | .mtlo _ => "MTLO"
  | .eret => "ERET"
  | .mfc0 _ _ => "MFC0"
  | .mtc0 _ _ => "MTC0"
  | .brk _ => "BREAK"
  | .syscall _ => "SYSCALL"

/-- One row of the table of R75: a word is the instruction exactly when `word &&& mask = pattern`. -/
structure OpcodeRow where
  mnemonic : String
  pattern : Word
  mask : Word
deriving DecidableEq, Repr

/-- The rows of the load, store, immediate and branch instructions (R75). -/
def opcodeRowsImmediate : List OpcodeRow :=
  [ OpcodeRow.mk "LB" 0x80000000#32 0xFC000000#32
  , OpcodeRow.mk "LBU" 0x90000000#32 0xFC000000#32
  , OpcodeRow.mk "LH" 0x84000000#32 0xFC000000#32
  , OpcodeRow.mk "LHU" 0x94000000#32 0xFC000000#32
  , OpcodeRow.mk "LW" 0x8C000000#32 0xFC000000#32
  , OpcodeRow.mk "SB" 0xA0000000#32 0xFC000000#32
  , OpcodeRow.mk "SH" 0xA4000000#32 0xFC000000#32
  , OpcodeRow.mk "SW" 0xAC000000#32 0xFC000000#32
  , OpcodeRow.mk "ADDI" 0x20000000#32 0xFC000000#32
  , OpcodeRow.mk "ADDIU" 0x24000000#32 0xFC000000#32
  , OpcodeRow.mk "ANDI" 0x30000000#32 0xFC000000#32
  , OpcodeRow.mk "ORI" 0x34000000#32 0xFC000000#32
  , OpcodeRow.mk "XORI" 0x38000000#32 0xFC000000#32
  , OpcodeRow.mk "LUI" 0x3C000000#32 0xFFE00000#32
  , OpcodeRow.mk "SLTI" 0x28000000#32 0xFC000000#32
  , OpcodeRow.mk "SLTIU" 0x2C000000#32 0xFC000000#32
  , OpcodeRow.mk "BEQ" 0x10000000#32 0xFC000000#32
  , OpcodeRow.mk "BNE" 0x14000000#32 0xFC000000#32
  , OpcodeRow.mk "BLEZ" 0x18000000#32 0xFC1F0000#32
  , OpcodeRow.mk "BGTZ" 0x1C000000#32 0xFC1F0000#32
  , OpcodeRow.mk "BLTZ" 0x04000000#32 0xFC1F0000#32
  , OpcodeRow.mk "BGEZ" 0x04010000#32 0xFC1F0000#32 ]

/-- The rows of opcode 000000 (R75). -/
def opcodeRowsSpecial : List OpcodeRow :=
  [ OpcodeRow.mk "ADD" 0x00000020#32 0xFC0007FF#32
  , OpcodeRow.mk "ADDU" 0x00000021#32 0xFC0007FF#32
  , OpcodeRow.mk "SUB" 0x00000022#32 0xFC0007FF#32
  , OpcodeRow.mk "SUBU" 0x00000023#32 0xFC0007FF#32
  , OpcodeRow.mk "MULT" 0x00000018#32 0xFC00FFFF#32
  , OpcodeRow.mk "MULTU" 0x00000019#32 0xFC00FFFF#32
  , OpcodeRow.mk "DIV" 0x0000001A#32 0xFC00FFFF#32
  , OpcodeRow.mk "DIVU" 0x0000001B#32 0xFC00FFFF#32
  , OpcodeRow.mk "SLT" 0x0000002A#32 0xFC0007FF#32
  , OpcodeRow.mk "SLTU" 0x0000002B#32 0xFC0007FF#32
  , OpcodeRow.mk "SLL" 0x00000000#32 0xFFE0003F#32
  , OpcodeRow.mk "SRL" 0x00000002#32 0xFFE0003F#32
  , OpcodeRow.mk "SRA" 0x00000003#32 0xFFE0003F#32
  , OpcodeRow.mk "SLLV" 0x00000004#32 0xFC0007FF#32
  , OpcodeRow.mk "SRLV" 0x00000006#32 0xFC0007FF#32
  , OpcodeRow.mk "SRAV" 0x00000007#32 0xFC0007FF#32
  , OpcodeRow.mk "AND" 0x00000024#32 0xFC0007FF#32
  , OpcodeRow.mk "OR" 0x00000025#32 0xFC0007FF#32
  , OpcodeRow.mk "XOR" 0x00000026#32 0xFC0007FF#32
  , OpcodeRow.mk "NOR" 0x00000027#32 0xFC0007FF#32
  , OpcodeRow.mk "JALR" 0x00000009#32 0xFC1F07FF#32
  , OpcodeRow.mk "JR" 0x00000008#32 0xFC1FFFFF#32
  , OpcodeRow.mk "MFHI" 0x00000010#32 0xFFFF07FF#32
  , OpcodeRow.mk "MFLO" 0x00000012#32 0xFFFF07FF#32
  , OpcodeRow.mk "MTHI" 0x00000011#32 0xFC1FFFFF#32
  , OpcodeRow.mk "MTLO" 0x00000013#32 0xFC1FFFFF#32
  , OpcodeRow.mk "BREAK" 0x0000000D#32 0xFC00003F#32
  , OpcodeRow.mk "SYSCALL" 0x0000000C#32 0xFC00003F#32 ]

/-- The rows of the jumps with an index and of opcode 010000 (R75). -/
def opcodeRowsOther : List OpcodeRow :=
  [ OpcodeRow.mk "J" 0x08000000#32 0xFC000000#32
  , OpcodeRow.mk "JAL" 0x0C000000#32 0xFC000000#32
  , OpcodeRow.mk "ERET" 0x42000018#32 0xFFFFFFFF#32
  , OpcodeRow.mk "MFC0" 0x40000000#32 0xFFE007FF#32
  , OpcodeRow.mk "MTC0" 0x40800000#32 0xFFE007FF#32 ]

/-- The table of R75, all 55 rows. -/
def opcodeTable : List OpcodeRow := opcodeRowsImmediate ++ (opcodeRowsSpecial ++ opcodeRowsOther)

end Sys2Proof
end

