-- ==== Sys2Proof/Config.lean ====
section
/-! DEFINITION. What the platform fixes (00_scope.md R7): the parameters as plain data, held in State so that a
statement about every state is one about every platform, and the open values as constants without a body.
The check of a configuration is in WellFormed.lean. -/

namespace Sys2Proof

/-- What an access is for: the `kind` of MEM_ADMITS (00_scope.md R7). -/
inductive AccessKind where
  | fetch
  | load
  | store
deriving DecidableEq, Repr

/-- The widths an access can have (20_memory.md R47). -/
inductive AccessWidth where
  | byte
  | half
  | word
deriving DecidableEq, Repr

/-- Which data access an AddressError was raised by (10_state.md R35). -/
inductive DataAccess where
  | load
  | store
deriving DecidableEq, Repr

/-- The exceptions the sources name (60_exceptions.md R220). AddressError carries what the last-exception
record keeps of it (10_state.md R35). -/
inductive ExcKind where
  | integerOverflow
  | addressError (addr : Word) (access : DataAccess)
  | breakpoint
  | systemCall
  | interrupt
deriving DecidableEq, Repr

/-- The two events that change the CP0 registers behind a program's back (10_state.md R28). -/
inductive Cp0Event where
  | entry (kind : ExcKind)
  | eret
deriving DecidableEq, Repr

/-- The name of such an event, by which a platform says what it does (00_scope.md R7, CAUSE_MAP's argument). -/
inductive Cp0EventName where
  | integerOverflow
  | addressErrorLoad
  | addressErrorStore
  | breakpoint
  | systemCall
  | interrupt
  | eret
deriving DecidableEq, Repr

/-- A value that a platform defines from the sources it may read, as plain data. Every function of finitely many
sources is the value of a term (Laws/Platform.lean), so the form shuts no definition out. -/
inductive PlatformTerm (Source : Type) where
  | const (value : Word)
  | source (name : Source)
  | complement (a : PlatformTerm Source)
  | bitAnd (a b : PlatformTerm Source)
  | bitOr (a b : PlatformTerm Source)
  | shiftLeft (a : PlatformTerm Source) (amount : BitVec 5)
  | shiftRight (a : PlatformTerm Source) (amount : BitVec 5)
  | ifEqual (a b equal different : PlatformTerm Source)
deriving DecidableEq, Repr

/-- What CP0_EFFECT may be defined from: the CP0 registers before the event, a free value for each register, and the
event's code of CAUSE_MAP (00_scope.md R7; 60_exceptions.md R224). -/
inductive Cp0Source where
  | before (index : BitVec 5)
  | drawn (index : BitVec 5)
  | code
deriving DecidableEq, Repr

/-- A platform's own definition of what one event leaves in one CP0 register other than EPC. CP0_EFFECT is a relation:
what the terms of an event's rules give over all free values is what the relation allows (00_scope.md R7). -/
structure Cp0Rule where
  event : Cp0EventName
  index : BitVec 5
  value : PlatformTerm Cp0Source
deriving DecidableEq, Repr

/-- One entry of CAUSE_MAP (00_scope.md R7, 60_exceptions.md R224). -/
structure CauseCode where
  event : Cp0EventName
  code : Word
deriving DecidableEq, Repr

/-- What DIV0 may be defined from: its arguments, and a free value for each of HI and LO (00_scope.md R7). -/
inductive Div0Source where
  | rsValue
  | rtValue
  | drawnHi
  | drawnLo
deriving DecidableEq, Repr

/-- DIV0: HI and LO after a division by zero, of DIV (signed) and of DIVU (unsigned); a function of the operands, a
draw, or part of each (00_scope.md R7; 93_implementation_defined.md U1, U2). -/
structure Div0 where
  signedHi : PlatformTerm Div0Source
  signedLo : PlatformTerm Div0Source
  unsignedHi : PlatformTerm Div0Source
  unsignedLo : PlatformTerm Div0Source
deriving DecidableEq, Repr

/-- DIV0 where the platform fixes nothing: both registers are drawn (92_eei_decisions.md D8). -/
def Div0.draw : Div0 :=
  { signedHi := .source .drawnHi, signedLo := .source .drawnLo
    unsignedHi := .source .drawnHi, unsignedLo := .source .drawnLo }

/-- The IRQ oracle from some step on (00_scope.md R7; 60_exceptions.md R232): its answers for the steps to come. -/
inductive IrqOracle where
  /-- It never delivers: the default. -/
  | never
  /-- `now` at the start of this step, then the rest. -/
  | answer (now : Bool) (later : IrqOracle)
  /-- The answers of `cycle`, over and over; none where it is empty. -/
  | repeating (cycle : List Bool)
  /-- Any answer at every step, without end: the free values from number `n` on. -/
  | unknown (n : Nat)
deriving DecidableEq, Repr

/-- One range of addresses and the accesses the platform admits there (20_memory.md R50). -/
structure Region where
  base : Nat
  size : Nat
  kinds : List AccessKind
  widths : List AccessWidth
deriving DecidableEq, Repr

/-- A run of consecutive words of the program text (20_memory.md R49). -/
structure TextSpan where
  base : Nat
  words : Nat
deriving DecidableEq, Repr

/-- The platform's parameters (00_scope.md R7). No instruction changes any of them. -/
structure Config where
  /-- RESET_PC (70_reset_and_hazards.md R261). -/
  resetPc : Word
  /-- EXC_HANDLER, the one handler address (60_exceptions.md R229). -/
  excHandler : Word
  /-- EPC_INDEX, which CP0 register is EPC (10_state.md R29). -/
  epcIndex : BitVec 5
  /-- CP0_EFFECT, where a platform defines it; an event and register without a rule take the default, any value
  (10_state.md R30). -/
  cp0Rules : List Cp0Rule
  /-- CAUSE_MAP, where a platform has one; it acts through CP0_EFFECT alone (60_exceptions.md R224). -/
  causeMap : List CauseCode
  /-- DIV0 (93_implementation_defined.md U1, U2). -/
  div0 : Div0
  /-- MEM_ADMITS, as the regions that admit an access (20_memory.md R50). -/
  admits : List Region
  /-- TEXT, where the program text stands (20_memory.md R49); its words are in memory. -/
  text : List TextSpan
deriving DecidableEq, Repr

/-- A region that admits every access to all 4 GB (10_state.md R33). -/
def Region.everything : Region :=
  { base := 0, size := 4294967296, kinds := [.fetch, .load, .store], widths := [.byte, .half, .word] }

/-- The configuration of State.reset. RESET_PC and EXC_HANDLER: PRESUMED, unsafe (logs 2, 3); EPC_INDEX:
PRESUMED, the spec's own default, unsafe (log 4); CP0_EFFECT, CAUSE_MAP and DIV0: the spec's defaults, any value;
MEM_ADMITS and TEXT: DESIGN CHOICE, unsafe (logs 5, 6). -/
def Config.default : Config :=
  { resetPc := 0x00003000#32
    excHandler := 0x00004180#32
    epcIndex := 14#5
    cp0Rules := []
    causeMap := []
    div0 := .draw
    admits := [Region.everything]
    text := [] }

/-- The draw of DIV0 (U1, U2): FREE, a pair (HI, LO) for the operands, the signedness and the draw. DESIGN CHOICE of
form, safe (log 9). -/
opaque Config.div0Draw (rsValue rtValue : Word) (signed : Bool) (draw : Nat) : Word × Word

/-- The draw of CP0_EFFECT, which is all of it by default: what exception entry or ERET leaves in a CP0 register other
than EPC (U5). FREE, a value for the event, the register, the whole CP0 file before it and the draw. DESIGN CHOICE of
form, safe (log 8). -/
opaque Config.cp0Effect (event : Cp0Event) (index : BitVec 5) (before : Vector Word 32) (draw : Nat) : Word

/-- What a byte of memory that nothing has loaded or written holds (10_state.md R36, U13): FREE, one value for
each address. DESIGN CHOICE of form, safe (log 7). -/
opaque Config.launchByte (addr : Word) : Byte

/-- Answer number `n` of an IRQ oracle of which nothing is known (60_exceptions.md R232, U15): FREE. DESIGN CHOICE of
form, safe (log 11). -/
opaque Config.irqAnswer (n : Nat) : Bool

end Sys2Proof
end

