-- ==== Sys2Proof/Machine/State.lean ====
section
/-! DEFINITION. The machine's state as plain data (10_state.md), what stops it, and the state after reset
(10_state.md R36, 70_reset_and_hazards.md R260). -/

namespace Sys2Proof.Machine

/-- A file of 32 registers of 32 bits: the general registers (10_state.md R20) or CP0 (R28). -/
abbrev RegFile := Vector Word 32

/-- Memory: the bytes that something has loaded or written, addresses strictly rising and below 2^32
(10_state.md R32, R33). An address that is not listed holds a free value (log 7), so no listed byte equals what an
unlisted address reads as. -/
abbrev Memory := List Host.Cell

/-- The model faults (60_exceptions.md R243): conditions for which the sources give the hardware no behaviour. The
machine stops; each is safe, for the hardware goes on in some way that nothing here claims anything about. Each
carries the pc at which it arose (10_state.md R35). -/
inductive Fault where
  /-- Raised by the fetch at a pc that is not a multiple of 4 (20_memory.md R45). Safe. -/
  | fetchMisaligned (pc : Word)
  /-- Raised by a fetch outside TEXT, and by a fetch, load or store that MEM_ADMITS refuses (20_memory.md R49,
  R50); `addr` is the address of the access. Safe. -/
  | memNotAdmitted (kind : AccessKind) (pc addr : Word)
  /-- Raised by a fetched word that matches no row of the opcode table (30_encoding.md R76). Safe. -/
  | invalidInstruction (pc word : Word)
  /-- Raised by a store a byte of which lies in the program text (20_memory.md R49). Safe. -/
  | storeToText (pc addr : Word)
deriving DecidableEq, Repr

/-- What the model rejects. -/
inductive Refusal where
  /-- An instruction that has no meaning yet; no arm of exec raises it. Safe. -/
  | notModelled (mnemonic : String)
  /-- Raised by step in a configuration that U9 or U22 says to refuse: RESET_PC or EXC_HANDLER misaligned, TEXT
  not word-aligned or not admitted for fetch. Safe. -/
  | badConfiguration
deriving DecidableEq, Repr

/-- The last-exception record (10_state.md R35): the kind, with the address and access of an AddressError, and the
pc of the instruction. No instruction reads it. -/
structure ExcRecord where
  kind : ExcKind
  pc : Word
deriving DecidableEq, Repr

/-- The machine. INVENTORY.md says where the spec names each field and what it holds at reset. -/
structure State where
  /-- x[0] to x[31] (10_state.md R20); slot 0 stays 0. -/
  regs : RegFile
  /-- The address of the instruction being executed (10_state.md R24). -/
  pc : Word
  /-- HI (10_state.md R26). -/
  hi : Word
  /-- LO (10_state.md R26). -/
  lo : Word
  /-- cp0[0] to cp0[31] (10_state.md R28); epc is cp0[cfg.epcIndex] (R29). -/
  cp0 : RegFile
  /-- Memory, the program text included (10_state.md R32, R33). -/
  mem : Memory
  /-- The platform's parameters (00_scope.md R7); no step changes them. -/
  cfg : Config
  /-- The IRQ oracle from the next step on (60_exceptions.md R232). -/
  irq : IrqOracle
  /-- How many draws of free values have been made: the model's own field (log 10). -/
  draws : Nat
  /-- The last-exception record (10_state.md R35). -/
  lastException : Option ExcRecord
  /-- The fault record (10_state.md R35). -/
  faultRecord : Option Fault
deriving DecidableEq, Repr

/-- The state a platform launches in (10_state.md R36, 70_reset_and_hazards.md R262): its parameters, its oracle and
the image it loaded. x[1] to x[31], hi, lo and CP0 are unspecified there and 0 here: DESIGN CHOICE, unsafe (log 1). -/
def State.launch (cfg : Config) (irq : IrqOracle) (image : Memory) : State :=
  { regs := Vector.replicate 32 0#32
    pc := cfg.resetPc
    hi := 0#32
    lo := 0#32
    cp0 := Vector.replicate 32 0#32
    mem := image
    cfg := cfg
    irq := irq
    draws := 0
    lastException := none
    faultRecord := none }

/-- The machine right after reset: the launch with the default parameters, no interrupt and nothing loaded. -/
def State.reset : State := State.launch Config.default .never []

end Sys2Proof.Machine
end

