-- ==== Sys2Proof/WellFormed.lean ====
section
/-! DEFINITION. What the model checks before it runs: that an instruction's fields are legal (every typed term is,
30_encoding.md R78) and that a platform's configuration is not one the spec says to refuse (U9, U22). -/

namespace Sys2Proof

/-- The widths of the constructors' fields ARE the encoding's (30_encoding.md R61), and the encoding places no
restriction on any field's value (R70, R78): every term is well formed. -/
def Instr.wellFormed (_ : Instr) : Bool := true

/-- An address is a multiple of 4. -/
def Config.wordAligned (a : Nat) : Bool := a % 4 == 0

/-- The bytes of a span of text end where they should, inside the 4 GB, and start at a word (U22). -/
def TextSpan.placed (t : TextSpan) : Bool :=
  Config.wordAligned t.base && decide (t.base + 4 * t.words ≤ 4294967296)

/-- MEM_ADMITS of a word fetch (20_memory.md R50). -/
def Region.admitsWordFetch (r : Region) (a : Nat) : Bool :=
  decide (r.base ≤ a) && decide (a + 4 ≤ r.base + r.size) && r.kinds.contains .fetch && r.widths.contains .word

/-- Each word of a span of text is admitted for fetch, by whichever region (U22). -/
def TextSpan.fetchable (admits : List Region) (t : TextSpan) : Bool :=
  (List.range t.words).all fun k => admits.any fun r => r.admitsWordFetch (t.base + 4 * k)

/-- The configurations the model runs (00_scope.md R7): RESET_PC and EXC_HANDLER multiples of 4 (U9), TEXT
word-aligned and admitted for fetch (U22). -/
def Config.wellFormed (c : Config) : Bool :=
  Config.wordAligned c.resetPc.toNat && Config.wordAligned c.excHandler.toNat
    && c.text.all TextSpan.placed && c.text.all (TextSpan.fetchable c.admits)

end Sys2Proof
end

