-- ==== Sys2Proof/Machine/Ops.lean ====
section
/-! DEFINITION. The named operations over registers, memory and the platform's parameters, taking an exception and
returning from one (10_state.md, 20_memory.md, 60_exceptions.md R226 to R235). -/

namespace Sys2Proof.Machine

/-- What a step or an instruction answers. -/
abbrev Result := Host.Outcome State Fault Refusal

/-! ## Registers -/

/-- Register `i` of a file. -/
def RegFile.read (f : RegFile) (i : BitVec 5) : Word := f.get i.toFin

/-- A file with register `i` replaced. -/
def RegFile.write (f : RegFile) (i : BitVec 5) (v : Word) : RegFile := f.set i.toNat v i.isLt

/-- Reads general register `r`; x[0] reads as 0 (10_state.md R22). -/
def State.x (s : State) (r : Reg) : Word := if r = 0#5 then 0#32 else RegFile.read s.regs r

/-- Writes general register `r`; a write to x[0] is discarded (10_state.md R22). -/
def State.setX (s : State) (r : Reg) (v : Word) : State :=
  if r = 0#5 then s else { s with regs := RegFile.write s.regs r v }

/-- Sets the address of the next instruction (10_state.md R24). -/
def State.setPc (s : State) (v : Word) : State := { s with pc := v }

/-- `pc <- pc + 4`, modulo 2^32 (10_state.md R25). -/
def State.advancePc (s : State) : State := s.setPc (s.pc + 4#32)

/-- Writes HI (10_state.md R26). -/
def State.setHi (s : State) (v : Word) : State := { s with hi := v }

/-- Writes LO (10_state.md R26). -/
def State.setLo (s : State) (v : Word) : State := { s with lo := v }

/-- Reads a CP0 register (10_state.md R28). -/
def State.cp0Reg (s : State) (i : Cp0Reg) : Word := RegFile.read s.cp0 i

/-- Replaces the CP0 file. -/
def State.setCp0 (s : State) (f : RegFile) : State := { s with cp0 := f }

/-- Writes a CP0 register, all 32 bits of it (10_state.md R29, R30). -/
def State.setCp0Reg (s : State) (i : Cp0Reg) (v : Word) : State :=
  s.setCp0 (RegFile.write s.cp0 i v)

/-- `epc`, which is cp0[EPC_INDEX] (10_state.md R29). -/
def State.epc (s : State) : Word := s.cp0Reg s.cfg.epcIndex

/-- Counts one draw of free values (log 10). -/
def State.countDraw (s : State) : State := { s with draws := s.draws + 1 }

/-- Writes the last-exception record (10_state.md R35). -/
def State.recordException (s : State) (k : ExcKind) : State := { s with lastException := some { kind := k, pc := s.pc } }

/-! ## Memory -/

/-- The byte listed at an address. -/
def Memory.read (m : Memory) (a : Nat) : Option Byte :=
  match m with
  | [] => none
  | c :: rest => if a = c.1 then some c.2 else Memory.read rest a

/-- Memory with a byte listed at an address, in the place its address has. -/
def Memory.write (m : Memory) (a : Nat) (b : Byte) : Memory :=
  match m with
  | [] => [(a, b)]
  | c :: rest =>
    if a < c.1 then (a, b) :: c :: rest
    else if a = c.1 then (a, b) :: rest
    else c :: Memory.write rest a b

/-- The canonical form: addresses strictly rising, all of them of the 4 GB (10_state.md R33). -/
abbrev Memory.wf (m : Memory) : Prop :=
  m.Pairwise (fun c d => c.1 < d.1) ∧ ∀ c ∈ m, c.1 < 4294967296

/-- The byte at an address: what was loaded or written there last, or a free value (20_memory.md R48, U13, log 7). -/
def State.readByte (s : State) (a : Word) : Byte := (Memory.read s.mem a.toNat).getD (Config.launchByte a)

/-- MemRead(a, 2) (00_scope.md R12). -/
def State.readHalf (s : State) (a : Word) : Half := halfOfBytes (s.readByte a) (s.readByte (a + 1#32))

/-- MemRead(a, 4) (00_scope.md R12). -/
def State.readWord (s : State) (a : Word) : Word :=
  wordOfBytes (s.readByte a) (s.readByte (a + 1#32)) (s.readByte (a + 2#32)) (s.readByte (a + 3#32))

/-- Stores one byte (00_scope.md R12). -/
def State.writeByte (s : State) (a : Word) (b : Byte) : State := { s with mem := Memory.write s.mem a.toNat b }

/-- MemWrite of the low `n` bytes of a word at `a` (00_scope.md R12): byte `a + k` receives byte `k`. -/
def State.writeBytes (s : State) (a : Word) (w : Word) : Nat → State
  | 0 => s
  | n + 1 => (s.writeBytes a w n).writeByte (a + BitVec.ofNat 32 n) (byteOfWord w n)

/-! ## What the platform admits -/

/-- How many bytes an access moves (20_memory.md R47). -/
def AccessWidth.bytes (n : AccessWidth) : Nat :=
  match n with
  | .byte => 1
  | .half => 2
  | .word => 4

/-- The alignment a data access requires (20_memory.md R43): the address is a multiple of the width. -/
def AccessWidth.aligned (n : AccessWidth) (a : Word) : Bool :=
  match n with
  | .byte => true
  | .half => a.extractLsb' 0 1 == 0#1
  | .word => a.extractLsb' 0 2 == 0#2

/-- A region admits an access when all of it lies inside (20_memory.md R50). -/
def Region.admitsAccess (r : Region) (a : Word) (n : AccessWidth) (k : AccessKind) : Bool :=
  decide (r.base ≤ a.toNat) && decide (a.toNat + AccessWidth.bytes n ≤ r.base + r.size)
    && r.kinds.contains k && r.widths.contains n

/-- MEM_ADMITS (00_scope.md R7, 20_memory.md R50). -/
def Config.admitsAccess (c : Config) (a : Word) (n : AccessWidth) (k : AccessKind) : Bool :=
  c.admits.any fun r => Region.admitsAccess r a n k

/-- Whether the byte at `a` lies in a word of TEXT (20_memory.md R49). -/
def Config.inText (c : Config) (a : Word) : Bool :=
  c.text.any fun t => decide (t.base ≤ a.toNat) && decide (a.toNat < t.base + 4 * t.words)

/-- Whether any of the `n` bytes at `a` lies in a word of TEXT (20_memory.md R49). -/
def Config.touchesText (c : Config) (a : Word) : Nat → Bool
  | 0 => false
  | n + 1 => Config.touchesText c a n || Config.inText c (a + BitVec.ofNat 32 n)

/-! ## What the platform defines -/

/-- The value of a platform's term (00_scope.md R7). -/
def PlatformTerm.eval {Source : Type} (value : Source → Word) (t : PlatformTerm Source) : Word :=
  match t with
  | .const v => v
  | .source name => value name
  | .complement a => ~~~PlatformTerm.eval value a
  | .bitAnd a b => PlatformTerm.eval value a &&& PlatformTerm.eval value b
  | .bitOr a b => PlatformTerm.eval value a ||| PlatformTerm.eval value b
  | .shiftLeft a amount => PlatformTerm.eval value a <<< amount.toNat
  | .shiftRight a amount => PlatformTerm.eval value a >>> amount.toNat
  | .ifEqual a b equal different =>
    if PlatformTerm.eval value a = PlatformTerm.eval value b then PlatformTerm.eval value equal
    else PlatformTerm.eval value different

/-! ## Exceptions (60_exceptions.md) -/

/-- The name of an event, without the address an AddressError carries. -/
def Cp0Event.name (ev : Cp0Event) : Cp0EventName :=
  match ev with
  | .entry .integerOverflow => .integerOverflow
  | .entry (.addressError _ .load) => .addressErrorLoad
  | .entry (.addressError _ .store) => .addressErrorStore
  | .entry .breakpoint => .breakpoint
  | .entry .systemCall => .systemCall
  | .entry .interrupt => .interrupt
  | .eret => .eret

/-- CAUSE_MAP's code for an event; `drawn`, any value, where the platform has none (60_exceptions.md R224). -/
def Config.causeCode (c : Config) (ev : Cp0Event) (drawn : Word) : Word :=
  match c.causeMap.find? fun m => m.event == Cp0Event.name ev with
  | some m => m.code
  | none => drawn

/-- What a term of CP0_EFFECT reads; `drawn` has a free value for each register (00_scope.md R7). -/
def Config.cp0SourceValue (c : Config) (ev : Cp0Event) (index : Cp0Reg) (before : RegFile) (drawn : Cp0Reg → Word)
    (name : Cp0Source) : Word :=
  match name with
  | .before j => RegFile.read before j
  | .drawn j => drawn j
  | .code => Config.causeCode c ev (drawn index)

/-- CP0_EFFECT on one register (00_scope.md R7, 10_state.md R30): the value of the platform's first rule for it, else
the register's free value. -/
def Config.cp0After (c : Config) (ev : Cp0Event) (index : Cp0Reg) (before : RegFile) (drawn : Cp0Reg → Word) : Word :=
  match c.cp0Rules.find? fun r => r.event == Cp0Event.name ev && r.index == index with
  | some r => PlatformTerm.eval (Config.cp0SourceValue c ev index before drawn) r.value
  | none => drawn index

/-- The CP0 file after an event (10_state.md R30, log 8): EPC's register as it was, each other one by CP0_EFFECT. -/
def Config.cp0FileAfter (c : Config) (ev : Cp0Event) (before : RegFile) (drawn : Cp0Reg → Word) : RegFile :=
  Vector.ofFn fun i =>
    if BitVec.ofFin i = c.epcIndex then before.get i else Config.cp0After c ev (BitVec.ofFin i) before drawn

/-- The free values that an event at this point draws for the CP0 registers (U5, log 8). -/
def State.cp0Draws (s : State) (ev : Cp0Event) (index : Cp0Reg) : Word := Config.cp0Effect ev index s.cp0 s.draws

/-- What exception entry and ERET do to the CP0 registers other than EPC (10_state.md R30). One draw. -/
def State.cp0Processing (s : State) (ev : Cp0Event) : State :=
  (s.setCp0 (Config.cp0FileAfter s.cfg ev s.cp0 (s.cp0Draws ev))).countDraw

/-- Exception entry (60_exceptions.md R226): `epc <- epcValue`, the other CP0 registers are processed, the
last-exception record is written, `pc <- EXC_HANDLER`. Nothing else changes (R227). -/
def State.enterException (s : State) (k : ExcKind) (epcValue : Word) : State :=
  (((s.recordException k).cp0Processing (.entry k)).setCp0Reg s.cfg.epcIndex epcValue).setPc s.cfg.excHandler

/-- `raise IntegerOverflow` (60_exceptions.md R228): epc takes the address of the instruction itself. -/
def State.raiseOverflow (s : State) : State := s.enterException .integerOverflow s.pc

/-- `raise AddressError` (60_exceptions.md R222, R228): epc takes the address of the load or store. -/
def State.raiseAddressError (s : State) (a : Word) (access : DataAccess) : State :=
  s.enterException (.addressError a access) s.pc

/-- The entry of BREAK and SYSCALL (48_trap.md R210, 60_exceptions.md R228): epc takes `pc + 4`. -/
def State.raiseTrap (s : State) (k : ExcKind) : State := s.enterException k (s.pc + 4#32)

/-- An interrupt taken between two instructions (60_exceptions.md R232): epc takes the address of the instruction
that has not executed. -/
def State.takeInterrupt (s : State) : State := s.enterException .interrupt s.pc

/-- The return from an exception (60_exceptions.md R235, 47_privileged.md R201): `pc <- epc`, the other CP0
registers are processed, nothing else is restored. -/
def State.returnFromException (s : State) : State := (s.setPc s.epc).cp0Processing .eret

/-! ## The IRQ oracle (60_exceptions.md R232) -/

/-- The answer for this step. -/
def IrqOracle.delivers (o : IrqOracle) : Bool :=
  match o with
  | .never => false
  | .answer now _ => now
  | .repeating cycle => cycle.head?.getD false
  | .unknown n => Config.irqAnswer n

/-- The oracle after this step's answer. -/
def IrqOracle.rest (o : IrqOracle) : IrqOracle :=
  match o with
  | .never => .never
  | .answer _ later => later
  | .repeating cycle => .repeating (cycle.tail ++ cycle.take 1)
  | .unknown n => .unknown (n + 1)

/-- The oracle with no interrupt at this step and its answers for the later ones. -/
def IrqOracle.withoutNow (o : IrqOracle) : IrqOracle :=
  match o with
  | .never => .never
  | .answer _ later => .answer false later
  | .repeating cycle => .answer false (IrqOracle.rest (.repeating cycle))
  | .unknown n => .answer false (.unknown (n + 1))

/-- Whether the oracle delivers an interrupt at the start of this step. -/
def State.irqDelivers (s : State) : Bool := IrqOracle.delivers s.irq

/-- The state with this step's answer taken from the oracle. -/
def State.consumeIrq (s : State) : State := { s with irq := IrqOracle.rest s.irq }

/-! ## Records -/

/-- The fault record is written once and never cleared (10_state.md R35). -/
def State.recordFault (s : State) (f : Fault) : State :=
  match s.faultRecord with
  | none => { s with faultRecord := some f }
  | some _ => s

/-! ## How an instruction ends -/

/-- Writes a general register and goes on to the next instruction (10_state.md R25). -/
def writeBack (s : State) (r : Reg) (v : Word) : Result := .next ((s.setX r v).advancePc)

/-- Writes HI and LO together and goes on (10_state.md R26). -/
def writeHiLo (s : State) (hi lo : Word) : Result := .next (((s.setHi hi).setLo lo).advancePc)

/-- What a term of DIV0 reads (00_scope.md R7). -/
def Div0Source.value (rsValue rtValue : Word) (drawn : Word × Word) (name : Div0Source) : Word :=
  match name with
  | .rsValue => rsValue
  | .rtValue => rtValue
  | .drawnHi => drawn.1
  | .drawnLo => drawn.2

/-- DIV0 (00_scope.md R7): the pair (HI, LO) that the platform defines from the operands, the signedness and a drawn
pair. -/
def Config.div0Pair (c : Config) (rsValue rtValue : Word) (signed : Bool) (drawn : Word × Word) : Word × Word :=
  let value := PlatformTerm.eval (Div0Source.value rsValue rtValue drawn)
  if signed then (value c.div0.signedHi, value c.div0.signedLo) else (value c.div0.unsignedHi, value c.div0.unsignedLo)

/-- The pair that a division by zero leaves in (HI, LO) (U1, U2, log 9). -/
def State.div0Values (s : State) (rsValue rtValue : Word) (signed : Bool) : Word × Word :=
  Config.div0Pair s.cfg rsValue rtValue signed (Config.div0Draw rsValue rtValue signed s.draws)

/-- A division by zero: DIV0 gives HI and LO; one draw (42_rr_arith.md R127, R128). -/
def divideByZero (s : State) (rsValue rtValue : Word) (signed : Bool) : Result :=
  writeHiLo s.countDraw (s.div0Values rsValue rtValue signed).1 (s.div0Values rsValue rtValue signed).2

/-- Transfers control, or goes on to the next instruction (44_branch.md R171). -/
def branchIf (s : State) (taken : Bool) (target : Word) : Result :=
  .next (if taken then s.setPc target else s.advancePc)

/-- A load of `n` bytes at `a` whose extended value is `v` (40_load.md R100): alignment, then admission, then the
register. -/
def loadInto (s : State) (n : AccessWidth) (a : Word) (rt : Reg) (v : Word) : Result :=
  if AccessWidth.aligned n a then
    if Config.admitsAccess s.cfg a n .load then writeBack s rt v
    else .fault (.memNotAdmitted .load s.pc a)
  else .next (s.raiseAddressError a .load)

/-- A store of the low `n` bytes of `v` at `a` (41_store.md R110): alignment, then the text, then admission, then
memory. -/
def storeFrom (s : State) (n : AccessWidth) (a : Word) (v : Word) : Result :=
  if AccessWidth.aligned n a then
    if Config.touchesText s.cfg a (AccessWidth.bytes n) then .fault (.storeToText s.pc a)
    else if Config.admitsAccess s.cfg a n .store then .next ((s.writeBytes a v (AccessWidth.bytes n)).advancePc)
    else .fault (.memNotAdmitted .store s.pc a)
  else .next (s.raiseAddressError a .store)

end Sys2Proof.Machine
end

