-- ==== Sys2Proof/Machine/Flags.lean ====
section
/-! DEFINITION. There are no flags (10_state.md R27). What other machines keep in flags stands here: the signed
overflow test on a 33-bit intermediate (60_exceptions.md R221) and comparison results as words 0 and 1. -/

namespace Sys2Proof.Machine

/-- A 33-bit intermediate overflows when its bits 32 and 31 differ (60_exceptions.md R221). -/
def overflows (temp : BitVec 33) : Bool := temp.getLsbD 32 != temp.getLsbD 31

/-- `sext_33(a) + sext_33(b)` (42_rr_arith.md R121, 43_ri_arith.md R151). -/
def sum33 (a b : Word) : BitVec 33 := a.signExtend 33 + b.signExtend 33

/-- `sext_33(a) - sext_33(b)` (42_rr_arith.md R123). -/
def difference33 (a b : Word) : BitVec 33 := a.signExtend 33 - b.signExtend 33

/-- Writes the low 32 bits of the intermediate, or raises IntegerOverflow (42_rr_arith.md R121). -/
def writeChecked (s : State) (r : Reg) (temp : BitVec 33) : Result :=
  if overflows temp then .next s.raiseOverflow else writeBack s r (temp.extractLsb' 0 32)

/-- The 32-bit 1 or 0 of a comparison (42_rr_arith.md R129). -/
def truthWord (c : Bool) : Word := if c then 1#32 else 0#32

/-- `a <s b` (00_scope.md R10). -/
def lessSigned (a b : Word) : Bool := decide (a.toInt < b.toInt)

/-- `a <u b` (00_scope.md R10). -/
def lessUnsigned (a b : Word) : Bool := decide (a.toNat < b.toNat)

end Sys2Proof.Machine
end

