-- ==== Sys2Proof/Machine/Operands.lean ====
section
/-! DEFINITION. How operands and targets are formed from fields and registers (30_encoding.md R63 to R69). -/

namespace Sys2Proof.Machine

/-- The sign-extended immediate of ADDI, ADDIU, SLTI, SLTIU (30_encoding.md R63). -/
def signedImm (imm : BitVec 16) : Word := imm.signExtend 32

/-- The zero-extended immediate of ANDI, ORI, XORI (30_encoding.md R64). -/
def zeroImm (imm : BitVec 16) : Word := imm.zeroExtend 32

/-- The immediate of LUI in the upper half (30_encoding.md R65). -/
def upperImm (imm : BitVec 16) : Word := imm ++ 0#16

/-- `Addr = x[base] + sext_32(offset)`, modulo 2^32 (30_encoding.md R66). -/
def effectiveAddress (s : State) (base : Reg) (offset : BitVec 16) : Word := s.x base + offset.signExtend 32

/-- `pc + 4 + sext_32(offset || 00)`, modulo 2^32 (30_encoding.md R67). -/
def branchTarget (s : State) (offset : BitVec 16) : Word := s.pc + 4#32 + (offset ++ 0#2).signExtend 32

/-- `pc[31:28] || instr_index || 00` (30_encoding.md R68). -/
def jumpTarget (s : State) (index : BitVec 26) : Word := s.pc.extractLsb' 28 4 ++ index ++ 0#2

/-- The amount of a variable shift, `x[rs][4:0]` (30_encoding.md R69). -/
def variableAmount (s : State) (rs : Reg) : Nat := ((s.x rs).extractLsb' 0 5).toNat

end Sys2Proof.Machine
end

