-- ==== Sys2Proof/Machine/ArithImm.lean ====
section
/-! DEFINITION. Register-immediate arithmetic (43_ri_arith.md). -/

namespace Sys2Proof.Machine

/-- ADDI (R151). -/
def execAddi (rs rt : Reg) (imm : BitVec 16) (s : State) : Result := writeChecked s rt (sum33 (s.x rs) (signedImm imm))

/-- ADDIU (R152). -/
def execAddiu (rs rt : Reg) (imm : BitVec 16) (s : State) : Result := writeBack s rt (s.x rs + signedImm imm)

/-- ANDI (R153). -/
def execAndi (rs rt : Reg) (imm : BitVec 16) (s : State) : Result := writeBack s rt (s.x rs &&& zeroImm imm)

/-- ORI (R154). -/
def execOri (rs rt : Reg) (imm : BitVec 16) (s : State) : Result := writeBack s rt (s.x rs ||| zeroImm imm)

/-- XORI (R155). -/
def execXori (rs rt : Reg) (imm : BitVec 16) (s : State) : Result := writeBack s rt (s.x rs ^^^ zeroImm imm)

/-- LUI (R156). -/
def execLui (rt : Reg) (imm : BitVec 16) (s : State) : Result := writeBack s rt (upperImm imm)

/-- SLTI (R157). -/
def execSlti (rs rt : Reg) (imm : BitVec 16) (s : State) : Result :=
  writeBack s rt (truthWord (lessSigned (s.x rs) (signedImm imm)))

/-- SLTIU (R158): the immediate is sign-extended first and only then read as unsigned. -/
def execSltiu (rs rt : Reg) (imm : BitVec 16) (s : State) : Result :=
  writeBack s rt (truthWord (lessUnsigned (s.x rs) (signedImm imm)))

end Sys2Proof.Machine
end

