-- ==== Sys2Proof/Machine/ArithReg.lean ====
section
/-! DEFINITION. Register-register arithmetic (42_rr_arith.md). -/

namespace Sys2Proof.Machine

/-- ADD (R121). -/
def execAdd (rs rt rd : Reg) (s : State) : Result := writeChecked s rd (sum33 (s.x rs) (s.x rt))

/-- ADDU (R122). -/
def execAddu (rs rt rd : Reg) (s : State) : Result := writeBack s rd (s.x rs + s.x rt)

/-- SUB (R123). -/
def execSub (rs rt rd : Reg) (s : State) : Result := writeChecked s rd (difference33 (s.x rs) (s.x rt))

/-- SUBU (R124). -/
def execSubu (rs rt rd : Reg) (s : State) : Result := writeBack s rd (s.x rs - s.x rt)

/-- Writes a 64-bit product: its upper half to HI, its lower half to LO (R125, R126). -/
def writeProduct (s : State) (prod : BitVec 64) : Result :=
  writeHiLo s (prod.extractLsb' 32 32) (prod.extractLsb' 0 32)

/-- MULT (R125). -/
def execMult (rs rt : Reg) (s : State) : Result :=
  writeProduct s (BitVec.ofInt 64 ((s.x rs).toInt * (s.x rt).toInt))

/-- MULTU (R126). -/
def execMultu (rs rt : Reg) (s : State) : Result :=
  writeProduct s (BitVec.ofNat 64 ((s.x rs).toNat * (s.x rt).toNat))

/-- DIV (R127): the quotient rounded toward zero in LO, the remainder in HI. -/
def execDiv (rs rt : Reg) (s : State) : Result :=
  if s.x rt = 0#32 then divideByZero s (s.x rs) (s.x rt) true
  else writeHiLo s (BitVec.ofInt 32 ((s.x rs).toInt.tmod (s.x rt).toInt))
    (BitVec.ofInt 32 ((s.x rs).toInt.tdiv (s.x rt).toInt))

/-- DIVU (R128). -/
def execDivu (rs rt : Reg) (s : State) : Result :=
  if s.x rt = 0#32 then divideByZero s (s.x rs) (s.x rt) false
  else writeHiLo s (BitVec.ofNat 32 ((s.x rs).toNat % (s.x rt).toNat))
    (BitVec.ofNat 32 ((s.x rs).toNat / (s.x rt).toNat))

/-- SLT (R129). -/
def execSlt (rs rt rd : Reg) (s : State) : Result := writeBack s rd (truthWord (lessSigned (s.x rs) (s.x rt)))

/-- SLTU (R130). -/
def execSltu (rs rt rd : Reg) (s : State) : Result := writeBack s rd (truthWord (lessUnsigned (s.x rs) (s.x rt)))

/-- SLL (R131). -/
def execSll (rt rd : Reg) (amount : BitVec 5) (s : State) : Result := writeBack s rd (s.x rt <<< amount.toNat)

/-- SRL (R132). -/
def execSrl (rt rd : Reg) (amount : BitVec 5) (s : State) : Result := writeBack s rd (s.x rt >>> amount.toNat)

/-- SRA (R133). -/
def execSra (rt rd : Reg) (amount : BitVec 5) (s : State) : Result := writeBack s rd ((s.x rt).sshiftRight amount.toNat)

/-- SLLV (R134). -/
def execSllv (rs rt rd : Reg) (s : State) : Result := writeBack s rd (s.x rt <<< variableAmount s rs)

/-- SRLV (R135). -/
def execSrlv (rs rt rd : Reg) (s : State) : Result := writeBack s rd (s.x rt >>> variableAmount s rs)

/-- SRAV (R136). -/
def execSrav (rs rt rd : Reg) (s : State) : Result := writeBack s rd ((s.x rt).sshiftRight (variableAmount s rs))

/-- AND (R137). -/
def execAnd (rs rt rd : Reg) (s : State) : Result := writeBack s rd (s.x rs &&& s.x rt)

/-- OR (R138). -/
def execOr (rs rt rd : Reg) (s : State) : Result := writeBack s rd (s.x rs ||| s.x rt)

/-- XOR (R139). -/
def execXor (rs rt rd : Reg) (s : State) : Result := writeBack s rd (s.x rs ^^^ s.x rt)

/-- NOR (R140). -/
def execNor (rs rt rd : Reg) (s : State) : Result := writeBack s rd (~~~(s.x rs ||| s.x rt))

end Sys2Proof.Machine
end

