-- ==== Sys2Proof/Machine/Branch.lean ====
section
/-! DEFINITION. The conditional branches (44_branch.md); no delay slot (R170). -/

namespace Sys2Proof.Machine

/-- BEQ (R172). -/
def execBeq (rs rt : Reg) (offset : BitVec 16) (s : State) : Result :=
  branchIf s (s.x rs == s.x rt) (branchTarget s offset)

/-- BNE (R173). -/
def execBne (rs rt : Reg) (offset : BitVec 16) (s : State) : Result :=
  branchIf s (s.x rs != s.x rt) (branchTarget s offset)

/-- BLEZ (R174). -/
def execBlez (rs : Reg) (offset : BitVec 16) (s : State) : Result :=
  branchIf s (decide ((s.x rs).toInt ≤ 0)) (branchTarget s offset)

/-- BGTZ (R175). -/
def execBgtz (rs : Reg) (offset : BitVec 16) (s : State) : Result :=
  branchIf s (decide (0 < (s.x rs).toInt)) (branchTarget s offset)

/-- BLTZ (R176). -/
def execBltz (rs : Reg) (offset : BitVec 16) (s : State) : Result :=
  branchIf s (s.x rs).msb (branchTarget s offset)

/-- BGEZ (R177). -/
def execBgez (rs : Reg) (offset : BitVec 16) (s : State) : Result :=
  branchIf s (!(s.x rs).msb) (branchTarget s offset)

end Sys2Proof.Machine
end

