-- ==== Sys2Proof/Machine/Jump.lean ====
section
/-! DEFINITION. The jumps (45_jump.md); no delay slot, the link is `pc + 4` (R180). -/

namespace Sys2Proof.Machine

/-- J (R181). -/
def execJ (index : BitVec 26) (s : State) : Result := .next (s.setPc (jumpTarget s index))

/-- JAL (R182). -/
def execJal (index : BitVec 26) (s : State) : Result :=
  .next ((s.setX 31#5 (s.pc + 4#32)).setPc (jumpTarget s index))

/-- JALR (R183): the target is read before the link is written. -/
def execJalr (rs rd : Reg) (s : State) : Result := .next ((s.setX rd (s.pc + 4#32)).setPc (s.x rs))

/-- JR (R184). -/
def execJr (rs : Reg) (s : State) : Result := .next (s.setPc (s.x rs))

end Sys2Proof.Machine
end

