-- ==== Sys2Proof/Machine/Load.lean ====
section
/-! DEFINITION. The loads (40_load.md). -/

namespace Sys2Proof.Machine

/-- LB (R101). -/
def execLb (base rt : Reg) (offset : BitVec 16) (s : State) : Result :=
  loadInto s .byte (effectiveAddress s base offset) rt ((s.readByte (effectiveAddress s base offset)).signExtend 32)

/-- LBU (R102). -/
def execLbu (base rt : Reg) (offset : BitVec 16) (s : State) : Result :=
  loadInto s .byte (effectiveAddress s base offset) rt ((s.readByte (effectiveAddress s base offset)).zeroExtend 32)

/-- LH (R103). -/
def execLh (base rt : Reg) (offset : BitVec 16) (s : State) : Result :=
  loadInto s .half (effectiveAddress s base offset) rt ((s.readHalf (effectiveAddress s base offset)).signExtend 32)

/-- LHU (R104). -/
def execLhu (base rt : Reg) (offset : BitVec 16) (s : State) : Result :=
  loadInto s .half (effectiveAddress s base offset) rt ((s.readHalf (effectiveAddress s base offset)).zeroExtend 32)

/-- LW (R105). -/
def execLw (base rt : Reg) (offset : BitVec 16) (s : State) : Result :=
  loadInto s .word (effectiveAddress s base offset) rt (s.readWord (effectiveAddress s base offset))

end Sys2Proof.Machine
end

