-- ==== Sys2Proof/Machine/Privileged.lean ====
section
/-! DEFINITION. The coprocessor-0 instructions (47_privileged.md): one mode, in which they always execute (R200). -/

namespace Sys2Proof.Machine

/-- ERET (R201). -/
def execEret (s : State) : Result := .next s.returnFromException

/-- MFC0 (R202). -/
def execMfc0 (rt : Reg) (rd : Cp0Reg) (s : State) : Result := writeBack s rt (s.cp0Reg rd)

/-- MTC0 (R203). -/
def execMtc0 (rt : Reg) (rd : Cp0Reg) (s : State) : Result := .next ((s.setCp0Reg rd (s.x rt)).advancePc)

end Sys2Proof.Machine
end

