-- ==== Sys2Proof/Machine/Store.lean ====
section
/-! DEFINITION. The stores (41_store.md). -/

namespace Sys2Proof.Machine

/-- SB (R111). -/
def execSb (base rt : Reg) (offset : BitVec 16) (s : State) : Result :=
  storeFrom s .byte (effectiveAddress s base offset) (s.x rt)

/-- SH (R112). -/
def execSh (base rt : Reg) (offset : BitVec 16) (s : State) : Result :=
  storeFrom s .half (effectiveAddress s base offset) (s.x rt)

/-- SW (R113). -/
def execSw (base rt : Reg) (offset : BitVec 16) (s : State) : Result :=
  storeFrom s .word (effectiveAddress s base offset) (s.x rt)

end Sys2Proof.Machine
end

