-- ==== Sys2Proof/Machine/Transfer.lean ====
section
/-! DEFINITION. The HI/LO transfers (46_transfer.md). -/

namespace Sys2Proof.Machine

/-- MFHI (R191). -/
def execMfhi (rd : Reg) (s : State) : Result := writeBack s rd s.hi

/-- MFLO (R192). -/
def execMflo (rd : Reg) (s : State) : Result := writeBack s rd s.lo

/-- MTHI (R193). -/
def execMthi (rs : Reg) (s : State) : Result := .next ((s.setHi (s.x rs)).advancePc)

/-- MTLO (R194). -/
def execMtlo (rs : Reg) (s : State) : Result := .next ((s.setLo (s.x rs)).advancePc)

end Sys2Proof.Machine
end

