-- ==== Sys2Proof/Machine/Trap.lean ====
section
/-! DEFINITION. The trap instructions (48_trap.md). The code field has no effect (R210). -/

namespace Sys2Proof.Machine

/-- BREAK (R211). -/
def execBreak (_code : BitVec 20) (s : State) : Result := .next (s.raiseTrap .breakpoint)

/-- SYSCALL (R212). -/
def execSyscall (_code : BitVec 20) (s : State) : Result := .next (s.raiseTrap .systemCall)

end Sys2Proof.Machine
end

