-- ==== Sys2Proof/Machine/Fetch.lean ====
section
/-! DEFINITION. Fetching and decoding the next instruction (00_scope.md R14; 60_exceptions.md R231 for the order). -/

namespace Sys2Proof.Machine

/-- The word at pc: FetchMisaligned, then MemNotAdmitted(fetch) outside TEXT or where the platform does not admit
the fetch, else MemRead(pc, 4) (20_memory.md R45, R46, R49, R50). -/
def fetchWord (s : State) : Except Fault Word :=
  if AccessWidth.aligned .word s.pc then
    if Config.inText s.cfg s.pc && Config.admitsAccess s.cfg s.pc .word .fetch then .ok (s.readWord s.pc)
    else .error (.memNotAdmitted .fetch s.pc s.pc)
  else .error (.fetchMisaligned s.pc)

/-- The instruction at pc, or the model fault (30_encoding.md R76). -/
def fetchInstr (s : State) : Except Fault Instr :=
  match fetchWord s with
  | .error f => .error f
  | .ok w =>
    match decode w with
    | .ok i => .ok i
    | .error _ => .error (.invalidInstruction s.pc w)

/-- TEXT with the word at `a` in it (20_memory.md R49). -/
def Config.withTextWord (c : Config) (a : Word) : Config :=
  if Config.inText c a then c else { c with text := { base := a.toNat, words := 1 } :: c.text }

/-- MEM_ADMITS with a fetch of the word at `a` admitted (20_memory.md R50). -/
def Config.withFetchAdmitted (c : Config) (a : Word) : Config :=
  if Config.admitsAccess c a .word .fetch then c
  else { c with admits := { base := a.toNat, size := 4, kinds := [.fetch], widths := [.word] } :: c.admits }

/-- The program load (70_reset_and_hazards.md R262) of one word, the next to be fetched: its bytes at pc, pc in
TEXT and admitted for fetch, no interrupt before it, no fault recorded (log 6). -/
def State.loadNextWord (s : State) (w : Word) : State :=
  { s.writeBytes s.pc w 4 with
    cfg := Config.withFetchAdmitted (Config.withTextWord s.cfg s.pc) s.pc
    irq := IrqOracle.withoutNow s.irq
    faultRecord := none }

end Sys2Proof.Machine
end

