-- ==== Sys2Proof/Machine/Step.lean ====
section
/-! DEFINITION. One step of the machine (00_scope.md R14). -/

namespace Sys2Proof.Machine

/-- One step (00_scope.md R14): a configuration the spec refuses is refused (U9, U22); after a recorded fault no
step is defined (10_state.md R35); an interrupt the oracle delivers is taken instead of executing
(60_exceptions.md R232); otherwise the instruction at pc is fetched, decoded and executed. -/
def step (s : State) : Host.Outcome State Fault Refusal :=
  if s.cfg.wellFormed then
    match s.faultRecord with
    | some f => .fault f
    | none =>
      if s.irqDelivers then .next s.consumeIrq.takeInterrupt
      else
        match fetchInstr s with
        | .ok i => exec i s.consumeIrq
        | .error f => .fault f
  else .refused .badConfiguration

/-- `s` with the instruction whose bits are `w` loaded where the next step fetches (log 6). -/
def State.withFetchWord (s : State) (nbits w : Nat) : State := s.loadNextWord (BitVec.ofNat 32 (w % 2 ^ nbits))

end Sys2Proof.Machine
end

