-- ==== Sys2Proof/Safety.lean ====
section
/-! DEFINITION. Runs: what one step leaves behind when the machine stops, and the convention for the end of a run
(70_reset_and_hazards.md R270). A convention of the evidence, not a property of the hardware. -/

namespace Sys2Proof.Machine

/-- One step as a total function: a model fault leaves the state with the fault record set and nothing else changed
(10_state.md R35); a refused configuration does not move. -/
def advance (s : State) : State :=
  match step s with
  | .next t => t
  | .fault f => s.recordFault f
  | .refused _ => s

/-- How a run stands (70_reset_and_hazards.md R270). -/
inductive RunEnd where
  /-- pc was END at the start of a step. -/
  | finished (s : State)
  /-- A model fault; the state has it in its fault record. -/
  | stopped (s : State)
  /-- The configuration is refused. -/
  | refused (r : Refusal)
  /-- Neither yet, after the steps given. -/
  | going (s : State)
deriving DecidableEq, Repr

/-- A run of at most `steps` steps that is finished when `pc = END` at the start of a step
(70_reset_and_hazards.md R270). -/
def runTo (endPc : Word) (steps : Nat) (s : State) : RunEnd :=
  match steps with
  | 0 => if s.pc = endPc then .finished s else .going s
  | n + 1 =>
    if s.pc = endPc then .finished s
    else
      match step s with
      | .next t => runTo endPc n t
      | .fault f => .stopped (s.recordFault f)
      | .refused r => .refused r

/-- A run is safe when it reaches neither a model fault nor a refusal: what a proof about a program shows
(60_exceptions.md R243). -/
def RunEnd.safe (e : RunEnd) : Bool :=
  match e with
  | .finished _ => true
  | .going _ => true
  | .stopped _ => false
  | .refused _ => false

/-- What holds of the state right after reset and is kept by every step: memory is in its canonical form
(10_state.md R33), the file's slot 0 is 0 (R22), an AddressError that is recorded was of a misaligned address
(20_memory.md R43), no fault is recorded and the configuration is one the model runs. -/
def State.inv (s : State) : Prop :=
  Memory.wf s.mem ∧ RegFile.read s.regs 0#5 = 0#32 ∧
    (∀ a access p, s.lastException = some { kind := .addressError a access, pc := p } → a.toNat % 4 ≠ 0) ∧
    s.faultRecord = none ∧ s.cfg.wellFormed = true

end Sys2Proof.Machine
end

