-- ==== Sys2Proof/Certificates/Slice0/Obligations.lean ====
section
/-! DEFINITION. The statements for the provers. First the words they are said in (what an instruction leaves
unchanged, where it goes on, that it enters the handler), then the statements, by the spec's files. -/

namespace Sys2Proof.Claims

open Sys2Proof.Machine

/-- Every general register reads as before. -/
def KeepsGprs (s t : State) : Prop := ∀ r, t.x r = s.x r

/-- HI and LO are as before. -/
def KeepsHiLo (s t : State) : Prop := t.hi = s.hi ∧ t.lo = s.lo

/-- Every CP0 register, EPC among them, is as before. -/
def KeepsCp0 (s t : State) : Prop := ∀ i, t.cp0Reg i = s.cp0Reg i

/-- Every byte of memory reads as before. -/
def KeepsMemory (s t : State) : Prop := ∀ a, t.readByte a = s.readByte a

/-- The platform's parameters, the oracle's answers and the fault record are as before. -/
def KeepsPlatform (s t : State) : Prop := t.cfg = s.cfg ∧ t.irq = s.irq ∧ t.faultRecord = s.faultRecord

/-- The last-exception record and the count of draws are as before. -/
def KeepsRecords (s t : State) : Prop := t.lastException = s.lastException ∧ t.draws = s.draws

/-- The instruction completes with `v` in general register `rd` (nothing written where `rd` is 0) and `pc + 4`; all
else is as before. -/
def WritesGpr (s : State) (rd : Reg) (v : Word) (o : Result) : Prop :=
  ∃ t, o = .next t ∧ (∀ r, t.x r = if r = 0#5 then 0#32 else if r = rd then v else s.x r) ∧ t.pc = s.pc + 4#32 ∧
    KeepsHiLo s t ∧ KeepsCp0 s t ∧ KeepsMemory s t ∧ KeepsPlatform s t ∧ KeepsRecords s t

/-- The instruction completes with HI and LO as given and `pc + 4`; all else is as before. -/
def WritesHiLo (s : State) (hi lo : Word) (o : Result) : Prop :=
  ∃ t, o = .next t ∧ t.hi = hi ∧ t.lo = lo ∧ t.pc = s.pc + 4#32 ∧
    KeepsGprs s t ∧ KeepsCp0 s t ∧ KeepsMemory s t ∧ KeepsPlatform s t ∧ KeepsRecords s t

/-- The instruction completes with the next instruction at `target`; all else is as before. -/
def GoesTo (s : State) (target : Word) (o : Result) : Prop :=
  ∃ t, o = .next t ∧ t.pc = target ∧
    KeepsGprs s t ∧ KeepsHiLo s t ∧ KeepsCp0 s t ∧ KeepsMemory s t ∧ KeepsPlatform s t ∧ KeepsRecords s t

/-- The instruction completes with the low `n` bytes of `v` stored at `a` and `pc + 4`; every other byte, and all
else, is as before. -/
def StoresBytes (s : State) (a : Word) (n : Nat) (v : Word) (o : Result) : Prop :=
  ∃ t, o = .next t ∧ (∀ k, k < n → t.readByte (a + BitVec.ofNat 32 k) = v.extractLsb' (8 * k) 8) ∧
    (∀ c, (∀ k, k < n → c ≠ a + BitVec.ofNat 32 k) → t.readByte c = s.readByte c) ∧ t.pc = s.pc + 4#32 ∧
    KeepsGprs s t ∧ KeepsHiLo s t ∧ KeepsCp0 s t ∧ KeepsPlatform s t ∧ KeepsRecords s t

/-- The instruction enters the handler by an exception of kind `k`, EPC taking `v`: the general registers, HI, LO and
memory are as before, the last-exception record is written. What the other CP0 registers hold is said by
Obligations.EntryProcessesOtherCp0Registers. -/
def EntersHandler (s : State) (k : ExcKind) (v : Word) (o : Result) : Prop :=
  ∃ t, o = .next t ∧ t.pc = s.cfg.excHandler ∧ t.epc = v ∧ t.lastException = some { kind := k, pc := s.pc } ∧
    KeepsGprs s t ∧ KeepsHiLo s t ∧ KeepsMemory s t ∧ KeepsPlatform s t

/-- The state with an empty last-exception record. -/
def forgetException (s : State) : State := { s with lastException := none }

/-- Executing the instruction writes a last-exception record of kind `k`. -/
def Raises (i : Instr) (s : State) (k : ExcKind) : Prop :=
  ∃ t, exec i (forgetException s) = .next t ∧ t.lastException = some { kind := k, pc := s.pc }

/-- The aligned word that contains byte `a` (20_memory.md R41). -/
def containingWord (s : State) (a : Word) : Word :=
  s.readByte ((a &&& 0xFFFFFFFC#32) + 3#32) ++ s.readByte ((a &&& 0xFFFFFFFC#32) + 2#32) ++
    s.readByte ((a &&& 0xFFFFFFFC#32) + 1#32) ++ s.readByte (a &&& 0xFFFFFFFC#32)

/-- An integer that 32 bits of two's complement hold. -/
def FitsSigned (n : Int) : Prop := -2147483648 ≤ n ∧ n ≤ 2147483647

/-- No row of the opcode table matches the word (30_encoding.md R76). -/
def MatchesNoRow (w : Word) : Prop := ∀ r ∈ opcodeTable, w &&& r.mask ≠ r.pattern

/-- Nothing stops the step before it fetches: a configuration the model runs, no fault recorded, no interrupt. -/
def ReadyToFetch (s : State) : Prop := s.cfg.wellFormed = true ∧ s.faultRecord = none ∧ s.irqDelivers = false

/-- The fetch at pc succeeds (20_memory.md R45, R49, R50). -/
def Fetches (s : State) : Prop :=
  s.pc.toNat % 4 = 0 ∧ Config.inText s.cfg s.pc = true ∧ Config.admitsAccess s.cfg s.pc .word .fetch = true

/-- An outcome without what it says of the last-exception record. -/
def withoutRecord (o : Result) : Result :=
  match o with
  | .next t => .next (forgetException t)
  | .fault f => .fault f
  | .refused r => .refused r

/-- An outcome without what it says of the CP0 file. -/
def withoutCp0 (o : Result) : Result :=
  match o with
  | .next t => .next (t.setCp0 (Vector.replicate 32 0#32))
  | .fault f => .fault f
  | .refused r => .refused r

end Sys2Proof.Claims

open Sys2Proof Sys2Proof.Machine Sys2Proof.Claims

/-! ## Encoding (30_encoding.md) -/

/-- One word of each family, written from its layout, is the instruction the layout says (95_test_vectors.md 1.1). -/
def Obligations.SampleWordsDecode : Prop :=
  decode 0b10000010000000110000000000000011#32 = .ok (.lb 16 3 3) ∧
  decode 0b10101110000000110000000000001000#32 = .ok (.sw 16 3 8) ∧
  decode 0b00000010010100111000100000100000#32 = .ok (.add 18 19 17) ∧
  decode 0b00000000000100101000100101000000#32 = .ok (.sll 18 17 5) ∧
  decode 0b00100010010100011111111111111111#32 = .ok (.addi 18 17 0xFFFF) ∧
  decode 0b00000110001000011111111111111110#32 = .ok (.bgez 17 0xFFFE) ∧
  decode 0b00000011111000001000100000001001#32 = .ok (.jalr 31 17) ∧
  decode 0b00000010001000000000000000010001#32 = .ok (.mthi 17) ∧
  decode 0b01000000100100010000100000000000#32 = .ok (.mtc0 17 1) ∧
  decode 0b01000010000000000000000000011000#32 = .ok .eret ∧
  decode 0b00000000000000010010001101001101#32 = .ok (.brk 0x0048D)

/-- Every instruction's word decodes to it, and so do its four bytes with the lowest address first. -/
def Obligations.DecodeInvertsEncode : Prop :=
  ∀ i rest, decode (encode i) = .ok i ∧ decodeBytes (bytesOfWord (encode i) ++ rest) = .ok (i, rest)

/-- R75 whole: a word is an instruction of a row exactly when it matches the row's mask and pattern; at most one row
matches a word; a word that no row matches is no instruction; and the bits of a word that is an instruction are its
fixed bits and its fields, as the layouts place them. -/
def Obligations.DecodeFollowsOpcodeTable : Prop :=
  (∀ w, ∀ r ∈ opcodeTable, w &&& r.mask = r.pattern ↔ ∃ i, decode w = .ok i ∧ i.mnemonic = r.mnemonic) ∧
  (∀ w, ∀ r ∈ opcodeTable, ∀ q ∈ opcodeTable, w &&& r.mask = r.pattern → w &&& q.mask = q.pattern → r = q) ∧
  (∀ w, MatchesNoRow w → ∃ e, decode w = .error e) ∧
  (∀ w i, decode w = .ok i → encode i = w)

/-- The word 0 is `sll $0, $0, 0`, whose only effect is on pc, x[0] discarding the result: the spec's decision D1
(log 12). -/
def Obligations.NopOnlyAdvancesPc : Prop :=
  decode 0x00000000#32 = .ok (.sll 0 0 0) ∧ ∀ s, exec (.sll 0 0 0) s = .next { s with pc := s.pc + 4#32 }

/-! ## Loads and stores (20_memory.md, 40_load.md, 41_store.md) -/

/-- LB and LBU, wherever the platform admits the byte: the byte lane of the containing word, sign- or zero-extended,
goes to x[rt]. A destination x[0] is discarded: the spec's decision D1 (log 12). -/
def Obligations.LoadByteTakesItsLane : Prop :=
  ∀ base rt offset s, Config.admitsAccess s.cfg (effectiveAddress s base offset) .byte .load = true →
    WritesGpr s rt (((containingWord s (effectiveAddress s base offset)).extractLsb'
      (8 * ((effectiveAddress s base offset).toNat % 4)) 8).signExtend 32) (exec (.lb base rt offset) s) ∧
    WritesGpr s rt (((containingWord s (effectiveAddress s base offset)).extractLsb'
      (8 * ((effectiveAddress s base offset).toNat % 4)) 8).zeroExtend 32) (exec (.lbu base rt offset) s)

/-- LH and LHU at an even address the platform admits: the halfword lane of the containing word, extended. -/
def Obligations.LoadHalfTakesItsLane : Prop :=
  ∀ base rt offset s, (effectiveAddress s base offset).toNat % 2 = 0 →
    Config.admitsAccess s.cfg (effectiveAddress s base offset) .half .load = true →
    WritesGpr s rt (((containingWord s (effectiveAddress s base offset)).extractLsb'
      (16 * ((effectiveAddress s base offset).toNat % 4 / 2)) 16).signExtend 32) (exec (.lh base rt offset) s) ∧
    WritesGpr s rt (((containingWord s (effectiveAddress s base offset)).extractLsb'
      (16 * ((effectiveAddress s base offset).toNat % 4 / 2)) 16).zeroExtend 32) (exec (.lhu base rt offset) s)

/-- LW at a multiple of 4 the platform admits: the word, its lowest byte at the lowest address. -/
def Obligations.LoadWordTakesTheWord : Prop :=
  ∀ base rt offset s, (effectiveAddress s base offset).toNat % 4 = 0 →
    Config.admitsAccess s.cfg (effectiveAddress s base offset) .word .load = true →
    WritesGpr s rt (containingWord s (effectiveAddress s base offset)) (exec (.lw base rt offset) s)

/-- SB outside TEXT, wherever the platform admits it, changes the byte at its address alone. -/
def Obligations.StoreByteWritesOneByte : Prop :=
  ∀ base rt offset s, Config.inText s.cfg (effectiveAddress s base offset) = false →
    Config.admitsAccess s.cfg (effectiveAddress s base offset) .byte .store = true →
    StoresBytes s (effectiveAddress s base offset) 1 (s.x rt) (exec (.sb base rt offset) s)

/-- SH at an even address outside TEXT that the platform admits changes its two bytes alone. -/
def Obligations.StoreHalfWritesTwoBytes : Prop :=
  ∀ base rt offset s, (effectiveAddress s base offset).toNat % 2 = 0 →
    (∀ k, k < 2 → Config.inText s.cfg (effectiveAddress s base offset + BitVec.ofNat 32 k) = false) →
    Config.admitsAccess s.cfg (effectiveAddress s base offset) .half .store = true →
    StoresBytes s (effectiveAddress s base offset) 2 (s.x rt) (exec (.sh base rt offset) s)

/-- SW at a multiple of 4 outside TEXT that the platform admits changes its four bytes alone. -/
def Obligations.StoreWordWritesFourBytes : Prop :=
  ∀ base rt offset s, (effectiveAddress s base offset).toNat % 4 = 0 →
    (∀ k, k < 4 → Config.inText s.cfg (effectiveAddress s base offset + BitVec.ofNat 32 k) = false) →
    Config.admitsAccess s.cfg (effectiveAddress s base offset) .word .store = true →
    StoresBytes s (effectiveAddress s base offset) 4 (s.x rt) (exec (.sw base rt offset) s)

/-- R43 whole: an AddressError is raised by exactly the halfword accesses whose full effective address
`x[base] + sext_32(offset)` modulo 2^32 is odd and the word accesses whose full effective address is no multiple of 4;
LB, LBU and SB require nothing. The address that the other statements name is that sum. -/
def Obligations.AddressErrorExactlyWhenMisaligned : Prop :=
  (∀ s base (offset : BitVec 16),
    effectiveAddress s base offset = BitVec.ofInt 32 (((s.x base).toNat : Int) + offset.toInt)) ∧
  ∀ i s a access, Raises i s (.addressError a access) ↔
    (∃ base rt offset, a = BitVec.ofInt 32 (((s.x base).toNat : Int) + offset.toInt) ∧
      ((access = .load ∧ (i = .lh base rt offset ∨ i = .lhu base rt offset) ∧ a.extractLsb' 0 1 ≠ 0#1) ∨
       (access = .load ∧ i = .lw base rt offset ∧ a.extractLsb' 0 2 ≠ 0#2) ∨
       (access = .store ∧ i = .sh base rt offset ∧ a.extractLsb' 0 1 ≠ 0#1) ∨
       (access = .store ∧ i = .sw base rt offset ∧ a.extractLsb' 0 2 ≠ 0#2)))

/-- R44 whole: a misaligned halfword or word access raises AddressError with EPC at the instruction itself, moves no
byte and writes no register, whether or not the platform admits it; the address is kept in the last-exception record
alone. -/
def Obligations.MisalignedAccessMovesNothing : Prop :=
  ∀ base rt offset s,
    ((effectiveAddress s base offset).toNat % 2 ≠ 0 →
      EntersHandler s (.addressError (effectiveAddress s base offset) .load) s.pc (exec (.lh base rt offset) s) ∧
      EntersHandler s (.addressError (effectiveAddress s base offset) .load) s.pc (exec (.lhu base rt offset) s) ∧
      EntersHandler s (.addressError (effectiveAddress s base offset) .store) s.pc (exec (.sh base rt offset) s)) ∧
    ((effectiveAddress s base offset).toNat % 4 ≠ 0 →
      EntersHandler s (.addressError (effectiveAddress s base offset) .load) s.pc (exec (.lw base rt offset) s) ∧
      EntersHandler s (.addressError (effectiveAddress s base offset) .store) s.pc (exec (.sw base rt offset) s))

/-- After an aligned SW, accesses of every width see what it stored (R42, an inference the spec marks as its own). -/
def Obligations.StoredWordReadsBackAtEveryWidth : Prop :=
  ∀ base rt offset s t, (effectiveAddress s base offset).toNat % 4 = 0 → exec (.sw base rt offset) s = .next t →
    t.readByte (effectiveAddress s base offset) = (s.x rt).extractLsb' 0 8 ∧
    t.readByte (effectiveAddress s base offset + 1#32) = (s.x rt).extractLsb' 8 8 ∧
    t.readByte (effectiveAddress s base offset + 2#32) = (s.x rt).extractLsb' 16 8 ∧
    t.readByte (effectiveAddress s base offset + 3#32) = (s.x rt).extractLsb' 24 8 ∧
    t.readHalf (effectiveAddress s base offset) = (s.x rt).extractLsb' 0 16 ∧
    t.readHalf (effectiveAddress s base offset + 2#32) = (s.x rt).extractLsb' 16 16 ∧
    t.readWord (effectiveAddress s base offset) = s.x rt

/-! ## Register-register and register-immediate arithmetic (42_rr_arith.md, 43_ri_arith.md) -/

/-- ADD: the sum where 32 signed bits hold it, else IntegerOverflow with EPC at the ADD. EPC's value: the spec's
decision D26 (log 18). -/
def Obligations.AddWritesTheSumOrOverflows : Prop :=
  ∀ rs rt rd s,
    (FitsSigned ((s.x rs).toInt + (s.x rt).toInt) →
      WritesGpr s rd (BitVec.ofInt 32 ((s.x rs).toInt + (s.x rt).toInt)) (exec (.add rs rt rd) s)) ∧
    (¬ FitsSigned ((s.x rs).toInt + (s.x rt).toInt) →
      EntersHandler s .integerOverflow s.pc (exec (.add rs rt rd) s))

/-- SUB: the difference where 32 signed bits hold it, else IntegerOverflow with EPC at the SUB (D26, log 18). -/
def Obligations.SubWritesTheDifferenceOrOverflows : Prop :=
  ∀ rs rt rd s,
    (FitsSigned ((s.x rs).toInt - (s.x rt).toInt) →
      WritesGpr s rd (BitVec.ofInt 32 ((s.x rs).toInt - (s.x rt).toInt)) (exec (.sub rs rt rd) s)) ∧
    (¬ FitsSigned ((s.x rs).toInt - (s.x rt).toInt) →
      EntersHandler s .integerOverflow s.pc (exec (.sub rs rt rd) s))

/-- ADDI: the sum with the signed immediate, else IntegerOverflow with EPC at the ADDI (D26, log 18). -/
def Obligations.AddiWritesTheSumOrOverflows : Prop :=
  ∀ rs rt imm s,
    (FitsSigned ((s.x rs).toInt + imm.toInt) →
      WritesGpr s rt (BitVec.ofInt 32 ((s.x rs).toInt + imm.toInt)) (exec (.addi rs rt imm) s)) ∧
    (¬ FitsSigned ((s.x rs).toInt + imm.toInt) →
      EntersHandler s .integerOverflow s.pc (exec (.addi rs rt imm) s))

/-- R221 whole: IntegerOverflow is raised by ADD, SUB and ADDI when bits 32 and 31 of the 33-bit intermediate of the
sign-extended operands differ, and by nothing else (not by ADDU, ADDIU, SUBU, MULT, MULTU, nor DIV); then no general
register is written. -/
def Obligations.IntegerOverflowExactlyFromThree : Prop :=
  (∀ i s, Raises i s .integerOverflow ↔
    ((∃ rs rt rd, i = .add rs rt rd ∧ ((s.x rs).signExtend 33 + (s.x rt).signExtend 33).getLsbD 32 ≠
        ((s.x rs).signExtend 33 + (s.x rt).signExtend 33).getLsbD 31) ∨
     (∃ rs rt rd, i = .sub rs rt rd ∧ ((s.x rs).signExtend 33 - (s.x rt).signExtend 33).getLsbD 32 ≠
        ((s.x rs).signExtend 33 - (s.x rt).signExtend 33).getLsbD 31) ∨
     (∃ rs rt imm, i = .addi rs rt imm ∧ ((s.x rs).signExtend 33 + imm.signExtend 33).getLsbD 32 ≠
        ((s.x rs).signExtend 33 + imm.signExtend 33).getLsbD 31))) ∧
  (∀ i s t, Raises i s .integerOverflow → exec i s = .next t → KeepsGprs s t)

/-- ADDU, SUBU and ADDIU wrap modulo 2^32 and raise nothing. -/
def Obligations.UncheckedArithmeticWraps : Prop :=
  (∀ rs rt rd s, WritesGpr s rd (BitVec.ofNat 32 (((s.x rs).toNat + (s.x rt).toNat) % 4294967296))
    (exec (.addu rs rt rd) s)) ∧
  (∀ rs rt rd s, WritesGpr s rd (BitVec.ofInt 32 (((s.x rs).toNat : Int) - (s.x rt).toNat)) (exec (.subu rs rt rd) s)) ∧
  (∀ rs rt imm s, WritesGpr s rt (BitVec.ofInt 32 (((s.x rs).toNat : Int) + imm.toInt)) (exec (.addiu rs rt imm) s))

/-- AND, OR, XOR and NOR, bit by bit. -/
def Obligations.LogicWorksBitByBit : Prop :=
  ∀ rs rt rd s,
    (∃ v, WritesGpr s rd v (exec (.and rs rt rd) s) ∧
      ∀ k, k < 32 → v.getLsbD k = ((s.x rs).getLsbD k && (s.x rt).getLsbD k)) ∧
    (∃ v, WritesGpr s rd v (exec (.or rs rt rd) s) ∧
      ∀ k, k < 32 → v.getLsbD k = ((s.x rs).getLsbD k || (s.x rt).getLsbD k)) ∧
    (∃ v, WritesGpr s rd v (exec (.xor rs rt rd) s) ∧
      ∀ k, k < 32 → v.getLsbD k = ((s.x rs).getLsbD k != (s.x rt).getLsbD k)) ∧
    (∃ v, WritesGpr s rd v (exec (.nor rs rt rd) s) ∧
      ∀ k, k < 32 → v.getLsbD k = !((s.x rs).getLsbD k || (s.x rt).getLsbD k))

/-- ANDI, ORI and XORI extend the immediate with zeros: above bit 15, ANDI gives 0 and the others the register's bit.
LUI places it in the upper half. -/
def Obligations.ImmediateLogicExtendsWithZeros : Prop :=
  (∀ rs rt imm s,
    (∃ v, WritesGpr s rt v (exec (.andi rs rt imm) s) ∧
      ∀ k, k < 32 → v.getLsbD k = (decide (k < 16) && (s.x rs).getLsbD k && imm.getLsbD k)) ∧
    (∃ v, WritesGpr s rt v (exec (.ori rs rt imm) s) ∧
      ∀ k, k < 32 → v.getLsbD k = ((s.x rs).getLsbD k || (decide (k < 16) && imm.getLsbD k))) ∧
    (∃ v, WritesGpr s rt v (exec (.xori rs rt imm) s) ∧
      ∀ k, k < 32 → v.getLsbD k = ((s.x rs).getLsbD k != (decide (k < 16) && imm.getLsbD k)))) ∧
  (∀ rt imm s, WritesGpr s rt (BitVec.ofNat 32 (imm.toNat * 65536)) (exec (.lui rt imm) s))

/-- SLT and SLTI compare as signed; SLTU and SLTIU as unsigned, SLTIU's immediate sign-extended first, so that 0x8000
and above stand for 0xFFFF8000 and above. -/
def Obligations.SetLessComparesAsNamed : Prop :=
  (∀ rs rt rd s,
    WritesGpr s rd (if (s.x rs).toInt < (s.x rt).toInt then 1#32 else 0#32) (exec (.slt rs rt rd) s) ∧
    WritesGpr s rd (if (s.x rs).toNat < (s.x rt).toNat then 1#32 else 0#32) (exec (.sltu rs rt rd) s)) ∧
  (∀ rs rt imm s,
    WritesGpr s rt (if (s.x rs).toInt < imm.toInt then 1#32 else 0#32) (exec (.slti rs rt imm) s) ∧
    WritesGpr s rt (if (s.x rs).toNat < (if imm.toNat < 0x8000 then imm.toNat else imm.toNat + 0xFFFF0000)
      then 1#32 else 0#32) (exec (.sltiu rs rt imm) s))

/-- SLL multiplies by 2^s modulo 2^32, SRL divides the unsigned value, SRA the signed value, both rounding down. -/
def Obligations.FieldShiftsAreMultiplyAndDivide : Prop :=
  ∀ rt rd (amount : BitVec 5) s,
    WritesGpr s rd (BitVec.ofNat 32 ((s.x rt).toNat * 2 ^ amount.toNat)) (exec (.sll rt rd amount) s) ∧
    WritesGpr s rd (BitVec.ofNat 32 ((s.x rt).toNat / 2 ^ amount.toNat)) (exec (.srl rt rd amount) s) ∧
    WritesGpr s rd (BitVec.ofInt 32 ((s.x rt).toInt / 2 ^ amount.toNat)) (exec (.sra rt rd amount) s)

/-- SLLV, SRLV and SRAV shift x[rt] by x[rs] modulo 32. -/
def Obligations.RegisterShiftsTakeTheAmountModulo32 : Prop :=
  ∀ rs rt rd s,
    WritesGpr s rd (BitVec.ofNat 32 ((s.x rt).toNat * 2 ^ ((s.x rs).toNat % 32))) (exec (.sllv rs rt rd) s) ∧
    WritesGpr s rd (BitVec.ofNat 32 ((s.x rt).toNat / 2 ^ ((s.x rs).toNat % 32))) (exec (.srlv rs rt rd) s) ∧
    WritesGpr s rd (BitVec.ofInt 32 ((s.x rt).toInt / 2 ^ ((s.x rs).toNat % 32))) (exec (.srav rs rt rd) s)

/-- MULT and MULTU leave the exact 64-bit product, signed and unsigned, in HI and LO. -/
def Obligations.MultiplyIsExact : Prop :=
  ∀ rs rt s,
    (∃ hi lo, WritesHiLo s hi lo (exec (.mult rs rt) s) ∧ (hi ++ lo).toInt = (s.x rs).toInt * (s.x rt).toInt) ∧
    (∃ hi lo, WritesHiLo s hi lo (exec (.multu rs rt) s) ∧ (hi ++ lo).toNat = (s.x rs).toNat * (s.x rt).toNat)

/-- DIV by a nonzero divisor: quotient times divisor plus remainder is the dividend, the remainder is smaller than the
divisor and has the dividend's sign or is 0 (the spec's decision D6, log 16); -2^31 by -1 gives 0x80000000 and 0 (the
spec's decision D7, log 17). -/
def Obligations.SignedDivisionTruncates : Prop :=
  ∀ rs rt s, s.x rt ≠ 0#32 → ∃ hi lo, WritesHiLo s hi lo (exec (.div rs rt) s) ∧
    (if s.x rs = 0x80000000#32 ∧ s.x rt = 0xFFFFFFFF#32 then lo = 0x80000000#32 ∧ hi = 0#32
     else lo.toInt * (s.x rt).toInt + hi.toInt = (s.x rs).toInt ∧ hi.toInt.natAbs < (s.x rt).toInt.natAbs ∧
      (0 < hi.toInt → 0 < (s.x rs).toInt) ∧ (hi.toInt < 0 → (s.x rs).toInt < 0))

/-- DIVU by a nonzero divisor: the unsigned quotient and remainder. -/
def Obligations.UnsignedDivisionRoundsDown : Prop :=
  ∀ rs rt s, s.x rt ≠ 0#32 → ∃ hi lo, WritesHiLo s hi lo (exec (.divu rs rt) s) ∧
    lo.toNat * (s.x rt).toNat + hi.toNat = (s.x rs).toNat ∧ hi.toNat < (s.x rt).toNat

/-- DIV and DIVU by zero complete, raise nothing and change HI, LO, pc and the count of draws alone. HI and LO take the
values of DIV0, which are drawn where the platform fixes nothing; and every function of the operands and the signedness
is some platform's DIV0. No exception: the spec's decision D8; the form of DIV0: the model's (log 9). -/
def Obligations.DivisionByZeroCompletes : Prop :=
  (∀ rs rt s, s.x rt = 0#32 → ∀ i signed, ((i = .div rs rt ∧ signed = true) ∨ (i = .divu rs rt ∧ signed = false)) →
    ∃ t, exec i s = .next t ∧ t.pc = s.pc + 4#32 ∧ t.draws = s.draws + 1 ∧ t.lastException = s.lastException ∧
      (t.hi, t.lo) = Config.div0Pair s.cfg (s.x rs) 0#32 signed (Config.div0Draw (s.x rs) 0#32 signed s.draws) ∧
      KeepsGprs s t ∧ KeepsCp0 s t ∧ KeepsMemory s t ∧ KeepsPlatform s t) ∧
  (∀ c a b signed drawn, c.div0 = Div0.draw → Config.div0Pair c a b signed drawn = drawn) ∧
  (∀ f : Word → Word → Bool → Word × Word, ∃ d : Div0, ∀ c a b signed drawn, c.div0 = d →
    Config.div0Pair c a b signed drawn = f a b signed)

/-! ## Branches and jumps (44_branch.md, 45_jump.md) -/

/-- R67 whole: the offset, two zero bits appended and the 18 bits sign-extended, counts instructions; each branch goes
to `pc + 4` plus it, modulo 2^32, or to `pc + 4`, and a BEQ of a register with itself goes there always. -/
def Obligations.BranchOffsetCountsInstructions : Prop :=
  ∀ s rs rt (offset : BitVec 16),
    (offset ++ 0#2).signExtend 32 = BitVec.ofInt 32 (4 * offset.toInt) ∧
    exec (.beq rs rs offset) s = .next (s.setPc (s.pc + 4#32 + (offset ++ 0#2).signExtend 32)) ∧
    ∀ i ∈ [Instr.beq rs rt offset, .bne rs rt offset, .blez rs offset, .bgtz rs offset, .bltz rs offset, .bgez rs offset],
      ∃ t, exec i s = .next t ∧ (t.pc = s.pc + 4#32 + (offset ++ 0#2).signExtend 32 ∨ t.pc = s.pc + 4#32)

/-- BEQ and BNE compare all 32 bits and go at once to the target or to `pc + 4`: no delay slot, the spec's decision D2
(log 13). -/
def Obligations.EqualityBranchesGoAtOnce : Prop :=
  ∀ rs rt offset s,
    GoesTo s (if s.x rs = s.x rt then s.pc + 4#32 + BitVec.ofInt 32 (4 * offset.toInt) else s.pc + 4#32)
      (exec (.beq rs rt offset) s) ∧
    GoesTo s (if s.x rs = s.x rt then s.pc + 4#32 else s.pc + 4#32 + BitVec.ofInt 32 (4 * offset.toInt))
      (exec (.bne rs rt offset) s)

/-- BLEZ, BGTZ, BLTZ and BGEZ test the signed value and go at once to the target or to `pc + 4` (D2, log 13). -/
def Obligations.SignBranchesTestTheSignedValue : Prop :=
  ∀ rs offset s,
    GoesTo s (if (s.x rs).toInt ≤ 0 then s.pc + 4#32 + BitVec.ofInt 32 (4 * offset.toInt) else s.pc + 4#32)
      (exec (.blez rs offset) s) ∧
    GoesTo s (if 0 < (s.x rs).toInt then s.pc + 4#32 + BitVec.ofInt 32 (4 * offset.toInt) else s.pc + 4#32)
      (exec (.bgtz rs offset) s) ∧
    GoesTo s (if (s.x rs).toInt < 0 then s.pc + 4#32 + BitVec.ofInt 32 (4 * offset.toInt) else s.pc + 4#32)
      (exec (.bltz rs offset) s) ∧
    GoesTo s (if 0 ≤ (s.x rs).toInt then s.pc + 4#32 + BitVec.ofInt 32 (4 * offset.toInt) else s.pc + 4#32)
      (exec (.bgez rs offset) s)

/-- R68 whole: J and JAL go to word `instr_index` of the 256 MB region that the jump itself stands in. -/
def Obligations.JumpsStayInTheirRegion : Prop :=
  ∀ index s,
    (∃ t, exec (.j index) s = .next t ∧ t.pc.toNat = s.pc.toNat / 268435456 * 268435456 + 4 * index.toNat) ∧
    (∃ t, exec (.jal index) s = .next t ∧ t.pc.toNat = s.pc.toNat / 268435456 * 268435456 + 4 * index.toNat)

/-- J changes pc alone; JAL links `pc + 4` in x[31]; JALR goes to the old x[rs] and links `pc + 4` in x[rd] (the spec's
decision D20 where rs = rd, log 20; x[0]: D1, log 12); JR goes to x[rs]. -/
def Obligations.JumpsLinkTheNextInstruction : Prop :=
  (∀ index s, GoesTo s (jumpTarget s index) (exec (.j index) s)) ∧
  (∀ rs s, GoesTo s (s.x rs) (exec (.jr rs) s)) ∧
  (∀ index s, ∃ t, exec (.jal index) s = .next t ∧ t.pc = jumpTarget s index ∧
    (∀ r, t.x r = if r = 31#5 then s.pc + 4#32 else s.x r) ∧
    KeepsHiLo s t ∧ KeepsCp0 s t ∧ KeepsMemory s t ∧ KeepsPlatform s t ∧ KeepsRecords s t) ∧
  (∀ rs rd s, ∃ t, exec (.jalr rs rd) s = .next t ∧ t.pc = s.x rs ∧
    (∀ r, t.x r = if r = 0#5 then 0#32 else if r = rd then s.pc + 4#32 else s.x r) ∧
    KeepsHiLo s t ∧ KeepsCp0 s t ∧ KeepsMemory s t ∧ KeepsPlatform s t ∧ KeepsRecords s t)

/-! ## HI and LO, CP0, traps (46_transfer.md to 48_trap.md) -/

/-- The four transfers copy all 32 bits and change nothing else. -/
def Obligations.TransfersCopyHiAndLo : Prop :=
  (∀ rd s, WritesGpr s rd s.hi (exec (.mfhi rd) s)) ∧
  (∀ rd s, WritesGpr s rd s.lo (exec (.mflo rd) s)) ∧
  (∀ rs s, WritesHiLo s (s.x rs) s.lo (exec (.mthi rs) s)) ∧
  (∀ rs s, WritesHiLo s s.hi (s.x rs) (exec (.mtlo rs) s))

/-- MFC0 copies a CP0 register, EPC among them, to a general register; MTC0 writes all 32 bits of one (for EPC the
spec's decision D31, log 21), and no other. -/
def Obligations.Cp0MovesCopyWholeRegisters : Prop :=
  (∀ rt rd s, WritesGpr s rt (s.cp0Reg rd) (exec (.mfc0 rt rd) s)) ∧
  (∀ rt rd s, ∃ t, exec (.mtc0 rt rd) s = .next t ∧ t.pc = s.pc + 4#32 ∧
    (∀ i, t.cp0Reg i = if i = rd then s.x rt else s.cp0Reg i) ∧
    (t.epc = if s.cfg.epcIndex = rd then s.x rt else s.epc) ∧
    KeepsGprs s t ∧ KeepsHiLo s t ∧ KeepsMemory s t ∧ KeepsPlatform s t ∧ KeepsRecords s t)

/-- R235 whole: ERET goes to EPC, does the CP0 processing and restores nothing else; a JR through a register that MFC0
loaded from EPC reaches the same address without that processing. -/
def Obligations.EretReturnsToEpc : Prop :=
  (∀ s, ∃ t, exec .eret s = .next t ∧ t.pc = s.epc ∧ t.epc = s.epc ∧
    (∀ i, i ≠ s.cfg.epcIndex → t.cp0Reg i =
      Config.cp0After s.cfg .eret i s.cp0 fun j => Config.cp0Effect .eret j s.cp0 s.draws) ∧
    KeepsGprs s t ∧ KeepsHiLo s t ∧ KeepsMemory s t ∧ KeepsPlatform s t ∧ t.lastException = s.lastException) ∧
  (∀ s r, r ≠ 0#5 → ∃ t u, exec (.mfc0 r s.cfg.epcIndex) s = .next t ∧ exec (.jr r) t = .next u ∧
    u.pc = s.epc ∧ KeepsCp0 s u)

/-- CP0_EFFECT as the platform defines it: without a rule a register takes the draw, which is any value; else the value
of the first rule that names the event and the register, where CAUSE_MAP's code is that of the first entry for the event.
Every relation that allows something is some platform's CP0_EFFECT: over all draws its rules give exactly what the
relation allows. The form is the model's (log 8). -/
def Obligations.Cp0EffectFollowsThePlatform : Prop :=
  (∀ (c : Config) ev index before drawn,
    ((∀ r ∈ c.cp0Rules, r.event = Cp0Event.name ev → r.index ≠ index) →
      Config.cp0After c ev index before drawn = drawn index) ∧
    (∀ first r rest, c.cp0Rules = first ++ r :: rest → (∀ q ∈ first, q.event = Cp0Event.name ev → q.index ≠ index) →
      r.event = Cp0Event.name ev → r.index = index →
      Config.cp0After c ev index before drawn =
        PlatformTerm.eval (Config.cp0SourceValue c ev index before drawn) r.value ∧
      (r.value = .source .code → ∀ firstCodes m restCodes, c.causeMap = firstCodes ++ m :: restCodes →
        (∀ q ∈ firstCodes, q.event ≠ Cp0Event.name ev) → m.event = Cp0Event.name ev →
        Config.cp0After c ev index before drawn = m.code))) ∧
  (∀ effect : Cp0EventName → RegFile → (Cp0Reg → Word) → Prop, (∀ e before, ∃ after, effect e before after) →
    ∃ rules, ∀ (c : Config) ev before after, c.cp0Rules = rules →
      ((∃ drawn, ∀ i, Config.cp0After c ev i before drawn = after i) ↔ effect (Cp0Event.name ev) before after))

/-- BREAK and SYSCALL, whatever their code, enter the handler with EPC at the next instruction (the spec's decision
D26, log 18). -/
def Obligations.TrapsEnterTheHandler : Prop :=
  ∀ code s, EntersHandler s .breakpoint (s.pc + 4#32) (exec (.brk code) s) ∧
    EntersHandler s .systemCall (s.pc + 4#32) (exec (.syscall code) s)

/-- R223 whole: Breakpoint and SystemCall are raised by BREAK and SYSCALL always and by nothing else, and the code is
not recorded. -/
def Obligations.TrapsRaisedByTrapsAlone : Prop :=
  (∀ i s, Raises i s .breakpoint ↔ ∃ code, i = .brk code) ∧
  (∀ i s, Raises i s .systemCall ↔ ∃ code, i = .syscall code) ∧
  (∀ code code' s, exec (.brk code) s = exec (.brk code') s ∧ exec (.syscall code) s = exec (.syscall code') s)

/-! ## Exceptions and interrupts (60_exceptions.md) -/

/-- Which kinds instructions raise and what EPC then holds: the instruction itself for IntegerOverflow and
AddressError, the next for Breakpoint and SystemCall; no instruction raises Interrupt; control goes to the handler.
EPC's values: the spec's decision D26 (log 18). -/
def Obligations.EveryKindSavesItsAddress : Prop :=
  ∀ i s t r, exec i (forgetException s) = .next t → t.lastException = some r →
    r.pc = s.pc ∧ t.pc = s.cfg.excHandler ∧
    ((r.kind = .integerOverflow ∧ t.epc = s.pc) ∨ (∃ a access, r.kind = .addressError a access ∧ t.epc = s.pc) ∨
     (r.kind = .breakpoint ∧ t.epc = s.pc + 4#32) ∨ (r.kind = .systemCall ∧ t.epc = s.pc + 4#32))

/-- R227, all that it says of the machine: entry leaves the general registers, HI, LO and memory alone and
overwrites EPC. -/
def Obligations.EntryLeavesRegistersAndMemory : Prop :=
  ∀ s k v, KeepsGprs s (s.enterException k v) ∧ KeepsHiLo s (s.enterException k v) ∧
    KeepsMemory s (s.enterException k v) ∧ (s.enterException k v).epc = v

/-- With EPC untouched, ERET after SYSCALL or BREAK goes on after it, after an overflow (ADD, ADDI, SUB) or a misaligned
access (LH, LHU, LW, SH, SW) re-executes the instruction, after an interrupt goes on where the program was; registers,
HI, LO and memory are as they were (D26, log 18; D13, log 11). -/
def Obligations.ReturnResumesOrRepeats : Prop :=
  (∀ i s k, Raises i s k → ∃ t u, exec i s = .next t ∧ exec .eret t = .next u ∧
    u.pc = (if k = .breakpoint ∨ k = .systemCall then s.pc + 4#32 else s.pc) ∧
    KeepsGprs s u ∧ KeepsHiLo s u ∧ KeepsMemory s u) ∧
  (∀ s, ∃ u, exec .eret s.takeInterrupt = .next u ∧ u.pc = s.pc ∧
    KeepsGprs s u ∧ KeepsHiLo s u ∧ KeepsMemory s u)

/-- What entry leaves in the CP0 registers other than EPC: CP0_EFFECT of entry(K), on the file as it was before, whichever
way the entry is reached: by the operation, by an instruction that raises, by an interrupt. The form of CP0_EFFECT and of
its draws is the model's (log 8). -/
def Obligations.EntryProcessesOtherCp0Registers : Prop :=
  (∀ (s : State) k v j, j ≠ s.cfg.epcIndex → (s.enterException k v).cp0Reg j =
    Config.cp0After s.cfg (.entry k) j s.cp0 fun l => Config.cp0Effect (.entry k) l s.cp0 s.draws) ∧
  (∀ i s k, Raises i s k → ∃ t, exec i s = .next t ∧ t.draws = s.draws + 1 ∧ ∀ j, j ≠ s.cfg.epcIndex → t.cp0Reg j =
    Config.cp0After s.cfg (.entry k) j s.cp0 fun l => Config.cp0Effect (.entry k) l s.cp0 s.draws) ∧
  (∀ s, s.cfg.wellFormed = true → s.faultRecord = none → s.irqDelivers = true →
    ∃ t, step s = .next t ∧ t.draws = s.draws + 1 ∧ ∀ j, j ≠ s.cfg.epcIndex → t.cp0Reg j =
      Config.cp0After s.cfg (.entry .interrupt) j s.cp0 fun l => Config.cp0Effect (.entry .interrupt) l s.cp0 s.draws)

/-- An interrupt is taken at the start of a step, before the fetch, whatever stands at pc; EPC takes the address of the
instruction that has not executed (the spec's decision D13, log 11). The oracle answers as it is listed, never, over and
over, or with free values without end: the model's forms of it (log 11). -/
def Obligations.InterruptIsTakenBeforeTheFetch : Prop :=
  (∀ s, s.cfg.wellFormed = true → s.faultRecord = none → s.irqDelivers = true →
    ∃ t, step s = .next t ∧ t.pc = s.cfg.excHandler ∧ t.epc = s.pc ∧ t.irq = IrqOracle.rest s.irq ∧ t.cfg = s.cfg ∧
      t.lastException = some { kind := .interrupt, pc := s.pc } ∧
      KeepsGprs s t ∧ KeepsHiLo s t ∧ KeepsMemory s t) ∧
  (∀ b later, IrqOracle.delivers (.answer b later) = b ∧ IrqOracle.rest (.answer b later) = later) ∧
  (∀ n, IrqOracle.delivers (IrqOracle.rest^[n] .never) = false) ∧
  (∀ n cycle, IrqOracle.delivers (IrqOracle.rest^[n] (.repeating cycle)) = cycle.getD (n % cycle.length) false) ∧
  (∀ n m, IrqOracle.delivers (IrqOracle.rest^[n] (.unknown m)) = Config.irqAnswer (m + n))

/-- The model faults of R243. At the fetch, under its condition each fault is what the step answers. In execution, an
instruction faults exactly when it is an aligned load that is not admitted, or an aligned store that touches TEXT or,
outside TEXT, is not admitted: that a store which is both is StoreToText is R110's order (log 14). A fault stops the
machine with the fault recorded (log 22) and enters no handler; a division by zero is neither an exception nor a fault.
That these are faults at all: the spec's decisions D4, D5 (log 15), D17 (log 14) and D12 (log 22). -/
def Obligations.FaultsHaveTheirConditions : Prop :=
  (∀ s, ReadyToFetch s → s.pc.toNat % 4 ≠ 0 → step s = .fault (.fetchMisaligned s.pc)) ∧
  (∀ s, ReadyToFetch s → s.pc.toNat % 4 = 0 →
    (Config.inText s.cfg s.pc = false ∨ Config.admitsAccess s.cfg s.pc .word .fetch = false) →
    step s = .fault (.memNotAdmitted .fetch s.pc s.pc)) ∧
  (∀ s, ReadyToFetch s → Fetches s → MatchesNoRow (s.readWord s.pc) →
    step s = .fault (.invalidInstruction s.pc (s.readWord s.pc))) ∧
  (∀ i s f, exec i s = .fault f ↔ ∃ base rt offset n a, a = effectiveAddress s base offset ∧
    AccessWidth.aligned n a = true ∧
    ((f = .memNotAdmitted .load s.pc a ∧ Config.admitsAccess s.cfg a n .load = false ∧
      ((n = .byte ∧ (i = .lb base rt offset ∨ i = .lbu base rt offset)) ∨
       (n = .half ∧ (i = .lh base rt offset ∨ i = .lhu base rt offset)) ∨ (n = .word ∧ i = .lw base rt offset))) ∨
     (((f = .storeToText s.pc a ∧ ∃ k, k < AccessWidth.bytes n ∧ Config.inText s.cfg (a + BitVec.ofNat 32 k) = true) ∨
       (f = .memNotAdmitted .store s.pc a ∧ Config.admitsAccess s.cfg a n .store = false ∧
        ∀ k, k < AccessWidth.bytes n → Config.inText s.cfg (a + BitVec.ofNat 32 k) = false)) ∧
      ((n = .byte ∧ i = .sb base rt offset) ∨ (n = .half ∧ i = .sh base rt offset) ∨
       (n = .word ∧ i = .sw base rt offset))))) ∧
  (∀ s f, s.faultRecord = none → step s = .fault f → advance s = { s with faultRecord := some f }) ∧
  (∀ rs rt s, s.x rt = 0#32 → ∃ t u, exec (.div rs rt) s = .next t ∧ exec (.divu rs rt) s = .next u ∧
    t.lastException = s.lastException ∧ u.lastException = s.lastException)

/-- A recorded fault is never cleared and no step follows it (the spec's decision D12 and R35; log 22). -/
def Obligations.RecordedFaultStays : Prop :=
  ∀ s f n, s.faultRecord = some f → (advance^[n] s).faultRecord = some f ∧ ∀ t, step s ≠ .next t

/-- A step refuses exactly the configurations whose RESET_PC or EXC_HANDLER is no multiple of 4 (U9), or whose TEXT is not
word-aligned or has a word that is not admitted for fetch (U22), or does not fit the 4 GB; when the refusal happens, and
that it takes in a span past the 4 GB, are the model's choice (log 19). -/
def Obligations.IllFormedConfigurationRefused : Prop :=
  ∀ s, step s = .refused .badConfiguration ↔
    (s.cfg.resetPc.toNat % 4 ≠ 0 ∨ s.cfg.excHandler.toNat % 4 ≠ 0 ∨
      ∃ t ∈ s.cfg.text, t.base % 4 ≠ 0 ∨ 4294967296 < t.base + 4 * t.words ∨
        ∃ k, k < t.words ∧ Config.admitsAccess s.cfg (BitVec.ofNat 32 (t.base + 4 * k)) .word .fetch = false)

/-! ## The machine as a whole (00_scope.md, 10_state.md) -/

/-- A step runs the instruction that the four bytes at pc decode to, with the oracle's answer for this step taken. -/
def Obligations.StepRunsTheDecodedInstruction : Prop :=
  ∀ s i, ReadyToFetch s → Fetches s → i.wellFormed = true →
    decodeBytes [s.readByte s.pc, s.readByte (s.pc + 1#32), s.readByte (s.pc + 2#32), s.readByte (s.pc + 3#32)] =
      .ok (i, []) →
    step s = exec i { s with irq := IrqOracle.rest s.irq }

/-- A word loaded where the next step fetches is what that step runs. How a program comes to be loaded is the model's
choice (log 6). -/
def Obligations.LoadedWordRunsNext : Prop :=
  ∀ (s : State) (i : Instr), s.cfg.wellFormed = true → s.pc.toNat % 4 = 0 →
    step (s.withFetchWord 32 (encode i).toNat) = exec i (s.withFetchWord 32 (encode i).toNat).consumeIrq

/-- Every step keeps the canonical form of memory, the zero of slot 0, the misalignment of a recorded AddressError's
address, the empty fault record and the legality of the configuration. -/
def Obligations.EveryStepKeepsTheInvariant : Prop := ∀ s t, s.inv → step s = .next t → t.inv

/-- The state right after reset meets the invariant. -/
def Obligations.ResetMeetsTheInvariant : Prop := State.reset.inv

/-- Along every run from every state, stopped or not, no step changes the platform's parameters or a byte of the program
text (the spec's decision D17, log 14). -/
def Obligations.ProgramTextNeverChanges : Prop :=
  ∀ n s, (advance^[n] s).cfg = s.cfg ∧
    ∀ a, Config.inText s.cfg a = true → (advance^[n] s).readByte a = s.readByte a

/-- HI and LO are changed by MULT, MULTU, DIV, DIVU, MTHI and MTLO and by no other instruction, nor by an interrupt. -/
def Obligations.OnlySixInstructionsChangeHiLo : Prop :=
  (∀ i s t, exec i s = .next t →
    i.mnemonic ∉ ["MULT", "MULTU", "DIV", "DIVU", "MTHI", "MTLO"] → KeepsHiLo s t) ∧
  (∀ s, KeepsHiLo s s.takeInterrupt)

/-- Memory is changed by SB, SH and SW and by no other instruction. -/
def Obligations.OnlyStoresChangeMemory : Prop :=
  ∀ i s t, exec i s = .next t → i.mnemonic ∉ ["SB", "SH", "SW"] → KeepsMemory s t

/-- The CP0 registers are changed by MTC0, ERET and exception entry and by nothing else. -/
def Obligations.OnlyMtc0EntryAndEretChangeCp0 : Prop :=
  ∀ i s t, exec i s = .next t → i.mnemonic ∉ ["MTC0", "ERET"] →
    KeepsCp0 s t ∨ ∃ k v, t = s.enterException k v

/-- From a pc and a handler address that are multiples of 4, only JR, JALR and ERET can leave a pc that is not. -/
def Obligations.OnlyRegisterJumpsMisalignPc : Prop :=
  ∀ i s t, s.pc.toNat % 4 = 0 → s.cfg.excHandler.toNat % 4 = 0 → exec i s = .next t →
    i.mnemonic ∉ ["JR", "JALR", "ERET"] → t.pc.toNat % 4 = 0

/-- No instruction reads the last-exception record: with any other record in its place the outcome differs in the
record alone (the record is the spec's decision D12, log 22). -/
def Obligations.LastExceptionIsNeverRead : Prop :=
  ∀ i s record, withoutRecord (exec i { s with lastException := record }) = withoutRecord (exec i s)

/-- No CP0 register but EPC influences anything: with any other values in them every instruction but MFC0 has the same
outcome apart from the CP0 file (the spec's decision D10, log 8). -/
def Obligations.OtherCp0RegistersInfluenceNothing : Prop :=
  ∀ i s file, RegFile.read file s.cfg.epcIndex = s.epc → i.mnemonic ≠ "MFC0" →
    withoutCp0 (exec i (s.setCp0 file)) = withoutCp0 (exec i s)

/-- Every instruction has a meaning: none is refused, in any state. -/
def Obligations.NoInstructionIsRefused : Prop := ∀ i s r, exec i s ≠ .refused r

/-- x[0] reads as 0 and a write to it changes nothing; a write to another register changes that one alone. x[0] is the
spec's decision D1 (log 12). -/
def Obligations.RegisterZeroIsZero : Prop :=
  (∀ s : State, s.x 0 = 0#32) ∧ (∀ (s : State) v, s.setX 0 v = s) ∧
  (∀ (s : State) rd v, rd ≠ 0#5 → (s.setX rd v).x rd = v ∧ ∀ r, r ≠ rd → (s.setX rd v).x r = s.x r)

/-- The launch state: pc at RESET_PC, x[0] zero, memory as loaded, both records empty; reset is the launch with the
default parameters, which are the model's choice (logs 2 to 6), and nothing loaded. -/
def Obligations.LaunchStateAsTheSpecSays : Prop :=
  (∀ cfg irq image, (State.launch cfg irq image).pc = cfg.resetPc ∧ (State.launch cfg irq image).x 0 = 0#32 ∧
    (State.launch cfg irq image).lastException = none ∧ (State.launch cfg irq image).faultRecord = none ∧
    ∀ a b, Memory.read image a.toNat = some b → (State.launch cfg irq image).readByte a = b) ∧
  State.reset = State.launch Config.default .never []
end

