-- ==== Sys2Proof/Laws/Encoding.lean ====
section
/-! SUPPORT. What each field of 30_encoding.md R61 reads from each layout of R62, how a word is put together again
from its fields, and a layout under a mask. -/

namespace Sys2Proof

/-! ## Layouts I, I-MEM, I-BR, I-BZ, I-REGIMM and I-LUI -/

@[simp] theorem opcodeField_encodeI (o : BitVec 6) (a b : BitVec 5) (c : BitVec 16) :
    opcodeField (encodeI o a b c) = o := by
  simp only [opcodeField, encodeI]; ext i hi
  simp only [BitVec.getElem_extractLsb', BitVec.getLsbD_append]; grind

@[simp] theorem rsField_encodeI (o : BitVec 6) (a b : BitVec 5) (c : BitVec 16) :
    rsField (encodeI o a b c) = a := by
  simp only [rsField, encodeI]; ext i hi
  simp only [BitVec.getElem_extractLsb', BitVec.getLsbD_append]; grind

@[simp] theorem rtField_encodeI (o : BitVec 6) (a b : BitVec 5) (c : BitVec 16) :
    rtField (encodeI o a b c) = b := by
  simp only [rtField, encodeI]; ext i hi
  simp only [BitVec.getElem_extractLsb', BitVec.getLsbD_append]; grind

@[simp] theorem immField_encodeI (o : BitVec 6) (a b : BitVec 5) (c : BitVec 16) :
    immField (encodeI o a b c) = c := by
  simp only [immField, encodeI]; ext i hi
  simp only [BitVec.getElem_extractLsb', BitVec.getLsbD_append]; grind

/-! ## Layouts R, R-SH, R-MD, R-MF, R-MT, R-JR and R-JALR -/

@[simp] theorem opcodeField_encodeSpecial (a b c d : BitVec 5) (f : BitVec 6) :
    opcodeField (encodeSpecial a b c d f) = 0b000000#6 := by
  simp only [opcodeField, encodeSpecial]; ext i hi
  simp only [BitVec.getElem_extractLsb', BitVec.getLsbD_append]; grind

@[simp] theorem rsField_encodeSpecial (a b c d : BitVec 5) (f : BitVec 6) :
    rsField (encodeSpecial a b c d f) = a := by
  simp only [rsField, encodeSpecial]; ext i hi
  simp only [BitVec.getElem_extractLsb', BitVec.getLsbD_append]; grind

@[simp] theorem rtField_encodeSpecial (a b c d : BitVec 5) (f : BitVec 6) :
    rtField (encodeSpecial a b c d f) = b := by
  simp only [rtField, encodeSpecial]; ext i hi
  simp only [BitVec.getElem_extractLsb', BitVec.getLsbD_append]; grind

@[simp] theorem rdField_encodeSpecial (a b c d : BitVec 5) (f : BitVec 6) :
    rdField (encodeSpecial a b c d f) = c := by
  simp only [rdField, encodeSpecial]; ext i hi
  simp only [BitVec.getElem_extractLsb', BitVec.getLsbD_append]; grind

@[simp] theorem shiftField_encodeSpecial (a b c d : BitVec 5) (f : BitVec 6) :
    shiftField (encodeSpecial a b c d f) = d := by
  simp only [shiftField, encodeSpecial]; ext i hi
  simp only [BitVec.getElem_extractLsb', BitVec.getLsbD_append]; grind

@[simp] theorem functionField_encodeSpecial (a b c d : BitVec 5) (f : BitVec 6) :
    functionField (encodeSpecial a b c d f) = f := by
  simp only [functionField, encodeSpecial]; ext i hi
  simp only [BitVec.getElem_extractLsb', BitVec.getLsbD_append]; grind

/-! ## Layouts J -/

@[simp] theorem opcodeField_encodeJ (o : BitVec 6) (x : BitVec 26) :
    opcodeField (encodeJ o x) = o := by
  simp only [opcodeField, encodeJ]; ext i hi
  simp only [BitVec.getElem_extractLsb', BitVec.getLsbD_append]; grind

@[simp] theorem indexField_encodeJ (o : BitVec 6) (x : BitVec 26) :
    indexField (encodeJ o x) = x := by
  simp only [indexField, encodeJ]; ext i hi
  simp only [BitVec.getElem_extractLsb', BitVec.getLsbD_append]; grind

/-! ## Layouts R-TRAP -/

@[simp] theorem opcodeField_encodeTrap (c : BitVec 20) (f : BitVec 6) :
    opcodeField (encodeTrap c f) = 0b000000#6 := by
  simp only [opcodeField, encodeTrap]; ext i hi
  simp only [BitVec.getElem_extractLsb', BitVec.getLsbD_append]; grind

@[simp] theorem codeField_encodeTrap (c : BitVec 20) (f : BitVec 6) :
    codeField (encodeTrap c f) = c := by
  simp only [codeField, encodeTrap]; ext i hi
  simp only [BitVec.getElem_extractLsb', BitVec.getLsbD_append]; grind

@[simp] theorem functionField_encodeTrap (c : BitVec 20) (f : BitVec 6) :
    functionField (encodeTrap c f) = f := by
  simp only [functionField, encodeTrap]; ext i hi
  simp only [BitVec.getElem_extractLsb', BitVec.getLsbD_append]; grind

/-! ## Layouts C0-MOVE -/

@[simp] theorem opcodeField_encodeCop0Move (a b c : BitVec 5) :
    opcodeField (encodeCop0Move a b c) = 0b010000#6 := by
  simp only [opcodeField, encodeCop0Move]; ext i hi
  simp only [BitVec.getElem_extractLsb', BitVec.getLsbD_append]; grind

@[simp] theorem rsField_encodeCop0Move (a b c : BitVec 5) :
    rsField (encodeCop0Move a b c) = a := by
  simp only [rsField, encodeCop0Move]; ext i hi
  simp only [BitVec.getElem_extractLsb', BitVec.getLsbD_append]; grind

@[simp] theorem rtField_encodeCop0Move (a b c : BitVec 5) :
    rtField (encodeCop0Move a b c) = b := by
  simp only [rtField, encodeCop0Move]; ext i hi
  simp only [BitVec.getElem_extractLsb', BitVec.getLsbD_append]; grind

@[simp] theorem rdField_encodeCop0Move (a b c : BitVec 5) :
    rdField (encodeCop0Move a b c) = c := by
  simp only [rdField, encodeCop0Move]; ext i hi
  simp only [BitVec.getElem_extractLsb', BitVec.getLsbD_append]; grind

@[simp] theorem lowField_encodeCop0Move (a b c : BitVec 5) :
    lowField (encodeCop0Move a b c) = 0#11 := by
  simp only [lowField, encodeCop0Move]; ext i hi
  simp only [BitVec.getElem_extractLsb', BitVec.getLsbD_append]; grind

/-! ## A word is put together again from its fields -/

theorem encodeI_fields (w : Word) : encodeI (opcodeField w) (rsField w) (rtField w) (immField w) = w := by
  simp only [encodeI, opcodeField, rsField, rtField, immField]; ext i hi
  simp only [BitVec.getElem_append, BitVec.getElem_extractLsb']; grind

theorem encodeSpecial_fields (w : Word) (h : opcodeField w = 0b000000#6) :
    encodeSpecial (rsField w) (rtField w) (rdField w) (shiftField w) (functionField w) = w := by
  rw [encodeSpecial, ← h]
  simp only [opcodeField, rsField, rtField, rdField, shiftField, functionField]; ext i hi
  simp only [BitVec.getElem_append, BitVec.getElem_extractLsb']; grind

theorem encodeJ_fields (w : Word) : encodeJ (opcodeField w) (indexField w) = w := by
  simp only [encodeJ, opcodeField, indexField]; ext i hi
  simp only [BitVec.getElem_append, BitVec.getElem_extractLsb']; grind

theorem encodeTrap_fields (w : Word) (h : opcodeField w = 0b000000#6) :
    encodeTrap (codeField w) (functionField w) = w := by
  rw [encodeTrap, ← h]
  simp only [opcodeField, codeField, functionField]; ext i hi
  simp only [BitVec.getElem_append, BitVec.getElem_extractLsb']; grind

theorem encodeCop0Move_fields (w : Word) (h : opcodeField w = 0b010000#6) (h' : lowField w = 0#11) :
    encodeCop0Move (rsField w) (rtField w) (rdField w) = w := by
  rw [encodeCop0Move, ← h, ← h']
  simp only [opcodeField, rsField, rtField, rdField, lowField]; ext i hi
  simp only [BitVec.getElem_append, BitVec.getElem_extractLsb']; grind

/-! ## A layout under a mask of the same layout -/

theorem encodeI_and (o o' : BitVec 6) (a a' b b' : BitVec 5) (c c' : BitVec 16) :
    encodeI o a b c &&& encodeI o' a' b' c' = encodeI (o &&& o') (a &&& a') (b &&& b') (c &&& c') := by
  simp only [encodeI, ← BitVec.and_append]

/-- The word of six fields in the places of layout R, whatever the opcode. -/
def wordOfFields (o : BitVec 6) (a b c d : BitVec 5) (f : BitVec 6) : Word := o ++ a ++ b ++ c ++ d ++ f

theorem wordOfFields_and (o o' : BitVec 6) (a a' b b' c c' d d' : BitVec 5) (f f' : BitVec 6) :
    wordOfFields o a b c d f &&& wordOfFields o' a' b' c' d' f' =
      wordOfFields (o &&& o') (a &&& a') (b &&& b') (c &&& c') (d &&& d') (f &&& f') := by
  simp only [wordOfFields, ← BitVec.and_append]

theorem encodeJ_and (o o' : BitVec 6) (x x' : BitVec 26) :
    encodeJ o x &&& encodeJ o' x' = encodeJ (o &&& o') (x &&& x') := by
  simp only [encodeJ, ← BitVec.and_append]

/-- The word of three fields in the places of layout R-TRAP, whatever the opcode. -/
def wordOfTrapFields (o : BitVec 6) (c : BitVec 20) (f : BitVec 6) : Word := o ++ c ++ f

theorem wordOfTrapFields_and (o o' : BitVec 6) (c c' : BitVec 20) (f f' : BitVec 6) :
    wordOfTrapFields o c f &&& wordOfTrapFields o' c' f' = wordOfTrapFields (o &&& o') (c &&& c') (f &&& f') := by
  simp only [wordOfTrapFields, ← BitVec.and_append]

/-- The word of five fields in the places of layout C0-MOVE, whatever the opcode and the low bits. -/
def wordOfCop0Fields (o : BitVec 6) (a b c : BitVec 5) (l : BitVec 11) : Word := o ++ a ++ b ++ c ++ l

theorem wordOfCop0Fields_and (o o' : BitVec 6) (a a' b b' c c' : BitVec 5) (l l' : BitVec 11) :
    wordOfCop0Fields o a b c l &&& wordOfCop0Fields o' a' b' c' l' =
      wordOfCop0Fields (o &&& o') (a &&& a') (b &&& b') (c &&& c') (l &&& l') := by
  simp only [wordOfCop0Fields, ← BitVec.and_append]

end Sys2Proof
end

