-- ==== Sys2Proof/Laws/State.lean ====
section
/-! SUPPORT. One lemma per field per update of State, so that no later proof unfolds a record update, and the value of
each reading accessor after each update. -/

namespace Sys2Proof.Machine

/-! ### setPc -/

@[simp] theorem State.setPc_regs (s : State) (v : Word) : (s.setPc v).regs = s.regs := rfl
@[simp] theorem State.setPc_pc (s : State) (v : Word) : (s.setPc v).pc = v := rfl
@[simp] theorem State.setPc_hi (s : State) (v : Word) : (s.setPc v).hi = s.hi := rfl
@[simp] theorem State.setPc_lo (s : State) (v : Word) : (s.setPc v).lo = s.lo := rfl
@[simp] theorem State.setPc_cp0 (s : State) (v : Word) : (s.setPc v).cp0 = s.cp0 := rfl
@[simp] theorem State.setPc_mem (s : State) (v : Word) : (s.setPc v).mem = s.mem := rfl
@[simp] theorem State.setPc_cfg (s : State) (v : Word) : (s.setPc v).cfg = s.cfg := rfl
@[simp] theorem State.setPc_irq (s : State) (v : Word) : (s.setPc v).irq = s.irq := rfl
@[simp] theorem State.setPc_draws (s : State) (v : Word) : (s.setPc v).draws = s.draws := rfl
@[simp] theorem State.setPc_lastException (s : State) (v : Word) : (s.setPc v).lastException = s.lastException := rfl
@[simp] theorem State.setPc_faultRecord (s : State) (v : Word) : (s.setPc v).faultRecord = s.faultRecord := rfl
@[simp] theorem State.setPc_x (s : State) (v : Word) (r : Reg) : (s.setPc v).x r = s.x r := rfl
@[simp] theorem State.setPc_cp0Reg (s : State) (v : Word) (j : Cp0Reg) : (s.setPc v).cp0Reg j = s.cp0Reg j := rfl
@[simp] theorem State.setPc_readByte (s : State) (v : Word) (c : Word) : (s.setPc v).readByte c = s.readByte c := rfl
@[simp] theorem State.setPc_epc (s : State) (v : Word) : (s.setPc v).epc = s.epc := rfl

/-! ### setHi -/

@[simp] theorem State.setHi_regs (s : State) (v : Word) : (s.setHi v).regs = s.regs := rfl
@[simp] theorem State.setHi_pc (s : State) (v : Word) : (s.setHi v).pc = s.pc := rfl
@[simp] theorem State.setHi_hi (s : State) (v : Word) : (s.setHi v).hi = v := rfl
@[simp] theorem State.setHi_lo (s : State) (v : Word) : (s.setHi v).lo = s.lo := rfl
@[simp] theorem State.setHi_cp0 (s : State) (v : Word) : (s.setHi v).cp0 = s.cp0 := rfl
@[simp] theorem State.setHi_mem (s : State) (v : Word) : (s.setHi v).mem = s.mem := rfl
@[simp] theorem State.setHi_cfg (s : State) (v : Word) : (s.setHi v).cfg = s.cfg := rfl
@[simp] theorem State.setHi_irq (s : State) (v : Word) : (s.setHi v).irq = s.irq := rfl
@[simp] theorem State.setHi_draws (s : State) (v : Word) : (s.setHi v).draws = s.draws := rfl
@[simp] theorem State.setHi_lastException (s : State) (v : Word) : (s.setHi v).lastException = s.lastException := rfl
@[simp] theorem State.setHi_faultRecord (s : State) (v : Word) : (s.setHi v).faultRecord = s.faultRecord := rfl
@[simp] theorem State.setHi_x (s : State) (v : Word) (r : Reg) : (s.setHi v).x r = s.x r := rfl
@[simp] theorem State.setHi_cp0Reg (s : State) (v : Word) (j : Cp0Reg) : (s.setHi v).cp0Reg j = s.cp0Reg j := rfl
@[simp] theorem State.setHi_readByte (s : State) (v : Word) (c : Word) : (s.setHi v).readByte c = s.readByte c := rfl
@[simp] theorem State.setHi_epc (s : State) (v : Word) : (s.setHi v).epc = s.epc := rfl

/-! ### setLo -/

@[simp] theorem State.setLo_regs (s : State) (v : Word) : (s.setLo v).regs = s.regs := rfl
@[simp] theorem State.setLo_pc (s : State) (v : Word) : (s.setLo v).pc = s.pc := rfl
@[simp] theorem State.setLo_hi (s : State) (v : Word) : (s.setLo v).hi = s.hi := rfl
@[simp] theorem State.setLo_lo (s : State) (v : Word) : (s.setLo v).lo = v := rfl
@[simp] theorem State.setLo_cp0 (s : State) (v : Word) : (s.setLo v).cp0 = s.cp0 := rfl
@[simp] theorem State.setLo_mem (s : State) (v : Word) : (s.setLo v).mem = s.mem := rfl
@[simp] theorem State.setLo_cfg (s : State) (v : Word) : (s.setLo v).cfg = s.cfg := rfl
@[simp] theorem State.setLo_irq (s : State) (v : Word) : (s.setLo v).irq = s.irq := rfl
@[simp] theorem State.setLo_draws (s : State) (v : Word) : (s.setLo v).draws = s.draws := rfl
@[simp] theorem State.setLo_lastException (s : State) (v : Word) : (s.setLo v).lastException = s.lastException := rfl
@[simp] theorem State.setLo_faultRecord (s : State) (v : Word) : (s.setLo v).faultRecord = s.faultRecord := rfl
@[simp] theorem State.setLo_x (s : State) (v : Word) (r : Reg) : (s.setLo v).x r = s.x r := rfl
@[simp] theorem State.setLo_cp0Reg (s : State) (v : Word) (j : Cp0Reg) : (s.setLo v).cp0Reg j = s.cp0Reg j := rfl
@[simp] theorem State.setLo_readByte (s : State) (v : Word) (c : Word) : (s.setLo v).readByte c = s.readByte c := rfl
@[simp] theorem State.setLo_epc (s : State) (v : Word) : (s.setLo v).epc = s.epc := rfl

/-! ### setCp0 -/

@[simp] theorem State.setCp0_regs (s : State) (f : RegFile) : (s.setCp0 f).regs = s.regs := rfl
@[simp] theorem State.setCp0_pc (s : State) (f : RegFile) : (s.setCp0 f).pc = s.pc := rfl
@[simp] theorem State.setCp0_hi (s : State) (f : RegFile) : (s.setCp0 f).hi = s.hi := rfl
@[simp] theorem State.setCp0_lo (s : State) (f : RegFile) : (s.setCp0 f).lo = s.lo := rfl
@[simp] theorem State.setCp0_cp0 (s : State) (f : RegFile) : (s.setCp0 f).cp0 = f := rfl
@[simp] theorem State.setCp0_mem (s : State) (f : RegFile) : (s.setCp0 f).mem = s.mem := rfl
@[simp] theorem State.setCp0_cfg (s : State) (f : RegFile) : (s.setCp0 f).cfg = s.cfg := rfl
@[simp] theorem State.setCp0_irq (s : State) (f : RegFile) : (s.setCp0 f).irq = s.irq := rfl
@[simp] theorem State.setCp0_draws (s : State) (f : RegFile) : (s.setCp0 f).draws = s.draws := rfl
@[simp] theorem State.setCp0_lastException (s : State) (f : RegFile) : (s.setCp0 f).lastException = s.lastException := rfl
@[simp] theorem State.setCp0_faultRecord (s : State) (f : RegFile) : (s.setCp0 f).faultRecord = s.faultRecord := rfl
@[simp] theorem State.setCp0_x (s : State) (f : RegFile) (r : Reg) : (s.setCp0 f).x r = s.x r := rfl
@[simp] theorem State.setCp0_readByte (s : State) (f : RegFile) (c : Word) : (s.setCp0 f).readByte c = s.readByte c := rfl
@[simp] theorem State.setCp0_cp0Reg (s : State) (f : RegFile) (j : Cp0Reg) : (s.setCp0 f).cp0Reg j = RegFile.read f j := rfl

/-! ### setCp0Reg -/

@[simp] theorem State.setCp0Reg_regs (s : State) (i : Cp0Reg) (v : Word) : (s.setCp0Reg i v).regs = s.regs := rfl
@[simp] theorem State.setCp0Reg_pc (s : State) (i : Cp0Reg) (v : Word) : (s.setCp0Reg i v).pc = s.pc := rfl
@[simp] theorem State.setCp0Reg_hi (s : State) (i : Cp0Reg) (v : Word) : (s.setCp0Reg i v).hi = s.hi := rfl
@[simp] theorem State.setCp0Reg_lo (s : State) (i : Cp0Reg) (v : Word) : (s.setCp0Reg i v).lo = s.lo := rfl
@[simp] theorem State.setCp0Reg_cp0 (s : State) (i : Cp0Reg) (v : Word) : (s.setCp0Reg i v).cp0 = RegFile.write s.cp0 i v := rfl
@[simp] theorem State.setCp0Reg_mem (s : State) (i : Cp0Reg) (v : Word) : (s.setCp0Reg i v).mem = s.mem := rfl
@[simp] theorem State.setCp0Reg_cfg (s : State) (i : Cp0Reg) (v : Word) : (s.setCp0Reg i v).cfg = s.cfg := rfl
@[simp] theorem State.setCp0Reg_irq (s : State) (i : Cp0Reg) (v : Word) : (s.setCp0Reg i v).irq = s.irq := rfl
@[simp] theorem State.setCp0Reg_draws (s : State) (i : Cp0Reg) (v : Word) : (s.setCp0Reg i v).draws = s.draws := rfl
@[simp] theorem State.setCp0Reg_lastException (s : State) (i : Cp0Reg) (v : Word) : (s.setCp0Reg i v).lastException = s.lastException := rfl
@[simp] theorem State.setCp0Reg_faultRecord (s : State) (i : Cp0Reg) (v : Word) : (s.setCp0Reg i v).faultRecord = s.faultRecord := rfl
@[simp] theorem State.setCp0Reg_x (s : State) (i : Cp0Reg) (v : Word) (r : Reg) : (s.setCp0Reg i v).x r = s.x r := rfl
@[simp] theorem State.setCp0Reg_readByte (s : State) (i : Cp0Reg) (v : Word) (c : Word) : (s.setCp0Reg i v).readByte c = s.readByte c := rfl

/-! ### countDraw -/

@[simp] theorem State.countDraw_regs (s : State) : (s.countDraw).regs = s.regs := rfl
@[simp] theorem State.countDraw_pc (s : State) : (s.countDraw).pc = s.pc := rfl
@[simp] theorem State.countDraw_hi (s : State) : (s.countDraw).hi = s.hi := rfl
@[simp] theorem State.countDraw_lo (s : State) : (s.countDraw).lo = s.lo := rfl
@[simp] theorem State.countDraw_cp0 (s : State) : (s.countDraw).cp0 = s.cp0 := rfl
@[simp] theorem State.countDraw_mem (s : State) : (s.countDraw).mem = s.mem := rfl
@[simp] theorem State.countDraw_cfg (s : State) : (s.countDraw).cfg = s.cfg := rfl
@[simp] theorem State.countDraw_irq (s : State) : (s.countDraw).irq = s.irq := rfl
@[simp] theorem State.countDraw_draws (s : State) : (s.countDraw).draws = s.draws + 1 := rfl
@[simp] theorem State.countDraw_lastException (s : State) : (s.countDraw).lastException = s.lastException := rfl
@[simp] theorem State.countDraw_faultRecord (s : State) : (s.countDraw).faultRecord = s.faultRecord := rfl
@[simp] theorem State.countDraw_x (s : State) (r : Reg) : (s.countDraw).x r = s.x r := rfl
@[simp] theorem State.countDraw_cp0Reg (s : State) (j : Cp0Reg) : (s.countDraw).cp0Reg j = s.cp0Reg j := rfl
@[simp] theorem State.countDraw_readByte (s : State) (c : Word) : (s.countDraw).readByte c = s.readByte c := rfl
@[simp] theorem State.countDraw_epc (s : State) : (s.countDraw).epc = s.epc := rfl

/-! ### recordException -/

@[simp] theorem State.recordException_regs (s : State) (k : ExcKind) : (s.recordException k).regs = s.regs := rfl
@[simp] theorem State.recordException_pc (s : State) (k : ExcKind) : (s.recordException k).pc = s.pc := rfl
@[simp] theorem State.recordException_hi (s : State) (k : ExcKind) : (s.recordException k).hi = s.hi := rfl
@[simp] theorem State.recordException_lo (s : State) (k : ExcKind) : (s.recordException k).lo = s.lo := rfl
@[simp] theorem State.recordException_cp0 (s : State) (k : ExcKind) : (s.recordException k).cp0 = s.cp0 := rfl
@[simp] theorem State.recordException_mem (s : State) (k : ExcKind) : (s.recordException k).mem = s.mem := rfl
@[simp] theorem State.recordException_cfg (s : State) (k : ExcKind) : (s.recordException k).cfg = s.cfg := rfl
@[simp] theorem State.recordException_irq (s : State) (k : ExcKind) : (s.recordException k).irq = s.irq := rfl
@[simp] theorem State.recordException_draws (s : State) (k : ExcKind) : (s.recordException k).draws = s.draws := rfl
@[simp] theorem State.recordException_lastException (s : State) (k : ExcKind) : (s.recordException k).lastException = some { kind := k, pc := s.pc } := rfl
@[simp] theorem State.recordException_faultRecord (s : State) (k : ExcKind) : (s.recordException k).faultRecord = s.faultRecord := rfl
@[simp] theorem State.recordException_x (s : State) (k : ExcKind) (r : Reg) : (s.recordException k).x r = s.x r := rfl
@[simp] theorem State.recordException_cp0Reg (s : State) (k : ExcKind) (j : Cp0Reg) : (s.recordException k).cp0Reg j = s.cp0Reg j := rfl
@[simp] theorem State.recordException_readByte (s : State) (k : ExcKind) (c : Word) : (s.recordException k).readByte c = s.readByte c := rfl
@[simp] theorem State.recordException_epc (s : State) (k : ExcKind) : (s.recordException k).epc = s.epc := rfl

/-! ### writeByte -/

@[simp] theorem State.writeByte_regs (s : State) (a : Word) (b : Byte) : (s.writeByte a b).regs = s.regs := rfl
@[simp] theorem State.writeByte_pc (s : State) (a : Word) (b : Byte) : (s.writeByte a b).pc = s.pc := rfl
@[simp] theorem State.writeByte_hi (s : State) (a : Word) (b : Byte) : (s.writeByte a b).hi = s.hi := rfl
@[simp] theorem State.writeByte_lo (s : State) (a : Word) (b : Byte) : (s.writeByte a b).lo = s.lo := rfl
@[simp] theorem State.writeByte_cp0 (s : State) (a : Word) (b : Byte) : (s.writeByte a b).cp0 = s.cp0 := rfl
@[simp] theorem State.writeByte_mem (s : State) (a : Word) (b : Byte) : (s.writeByte a b).mem = Memory.write s.mem a.toNat b := rfl
@[simp] theorem State.writeByte_cfg (s : State) (a : Word) (b : Byte) : (s.writeByte a b).cfg = s.cfg := rfl
@[simp] theorem State.writeByte_irq (s : State) (a : Word) (b : Byte) : (s.writeByte a b).irq = s.irq := rfl
@[simp] theorem State.writeByte_draws (s : State) (a : Word) (b : Byte) : (s.writeByte a b).draws = s.draws := rfl
@[simp] theorem State.writeByte_lastException (s : State) (a : Word) (b : Byte) : (s.writeByte a b).lastException = s.lastException := rfl
@[simp] theorem State.writeByte_faultRecord (s : State) (a : Word) (b : Byte) : (s.writeByte a b).faultRecord = s.faultRecord := rfl
@[simp] theorem State.writeByte_x (s : State) (a : Word) (b : Byte) (r : Reg) : (s.writeByte a b).x r = s.x r := rfl
@[simp] theorem State.writeByte_cp0Reg (s : State) (a : Word) (b : Byte) (j : Cp0Reg) : (s.writeByte a b).cp0Reg j = s.cp0Reg j := rfl
@[simp] theorem State.writeByte_epc (s : State) (a : Word) (b : Byte) : (s.writeByte a b).epc = s.epc := rfl

/-! ### consumeIrq -/

@[simp] theorem State.consumeIrq_regs (s : State) : (s.consumeIrq).regs = s.regs := rfl
@[simp] theorem State.consumeIrq_pc (s : State) : (s.consumeIrq).pc = s.pc := rfl
@[simp] theorem State.consumeIrq_hi (s : State) : (s.consumeIrq).hi = s.hi := rfl
@[simp] theorem State.consumeIrq_lo (s : State) : (s.consumeIrq).lo = s.lo := rfl
@[simp] theorem State.consumeIrq_cp0 (s : State) : (s.consumeIrq).cp0 = s.cp0 := rfl
@[simp] theorem State.consumeIrq_mem (s : State) : (s.consumeIrq).mem = s.mem := rfl
@[simp] theorem State.consumeIrq_cfg (s : State) : (s.consumeIrq).cfg = s.cfg := rfl
@[simp] theorem State.consumeIrq_irq (s : State) : (s.consumeIrq).irq = IrqOracle.rest s.irq := rfl
@[simp] theorem State.consumeIrq_draws (s : State) : (s.consumeIrq).draws = s.draws := rfl
@[simp] theorem State.consumeIrq_lastException (s : State) : (s.consumeIrq).lastException = s.lastException := rfl
@[simp] theorem State.consumeIrq_faultRecord (s : State) : (s.consumeIrq).faultRecord = s.faultRecord := rfl
@[simp] theorem State.consumeIrq_x (s : State) (r : Reg) : (s.consumeIrq).x r = s.x r := rfl
@[simp] theorem State.consumeIrq_cp0Reg (s : State) (j : Cp0Reg) : (s.consumeIrq).cp0Reg j = s.cp0Reg j := rfl
@[simp] theorem State.consumeIrq_readByte (s : State) (c : Word) : (s.consumeIrq).readByte c = s.readByte c := rfl
@[simp] theorem State.consumeIrq_epc (s : State) : (s.consumeIrq).epc = s.epc := rfl

/-! ### advancePc -/

@[simp] theorem State.advancePc_regs (s : State) : s.advancePc.regs = s.regs := rfl
@[simp] theorem State.advancePc_pc (s : State) : s.advancePc.pc = s.pc + 4#32 := rfl
@[simp] theorem State.advancePc_hi (s : State) : s.advancePc.hi = s.hi := rfl
@[simp] theorem State.advancePc_lo (s : State) : s.advancePc.lo = s.lo := rfl
@[simp] theorem State.advancePc_cp0 (s : State) : s.advancePc.cp0 = s.cp0 := rfl
@[simp] theorem State.advancePc_mem (s : State) : s.advancePc.mem = s.mem := rfl
@[simp] theorem State.advancePc_cfg (s : State) : s.advancePc.cfg = s.cfg := rfl
@[simp] theorem State.advancePc_irq (s : State) : s.advancePc.irq = s.irq := rfl
@[simp] theorem State.advancePc_draws (s : State) : s.advancePc.draws = s.draws := rfl
@[simp] theorem State.advancePc_lastException (s : State) : s.advancePc.lastException = s.lastException := rfl
@[simp] theorem State.advancePc_faultRecord (s : State) : s.advancePc.faultRecord = s.faultRecord := rfl
@[simp] theorem State.advancePc_x (s : State) (r : Reg) : s.advancePc.x r = s.x r := rfl
@[simp] theorem State.advancePc_cp0Reg (s : State) (j : Cp0Reg) : s.advancePc.cp0Reg j = s.cp0Reg j := rfl
@[simp] theorem State.advancePc_epc (s : State) : s.advancePc.epc = s.epc := rfl
@[simp] theorem State.advancePc_readByte (s : State) (c : Word) : s.advancePc.readByte c = s.readByte c := rfl

/-! ### setX -/

@[simp] theorem State.setX_pc (s : State) (r : Reg) (v : Word) : (s.setX r v).pc = s.pc := by
  unfold State.setX; split <;> rfl
@[simp] theorem State.setX_hi (s : State) (r : Reg) (v : Word) : (s.setX r v).hi = s.hi := by
  unfold State.setX; split <;> rfl
@[simp] theorem State.setX_lo (s : State) (r : Reg) (v : Word) : (s.setX r v).lo = s.lo := by
  unfold State.setX; split <;> rfl
@[simp] theorem State.setX_cp0 (s : State) (r : Reg) (v : Word) : (s.setX r v).cp0 = s.cp0 := by
  unfold State.setX; split <;> rfl
@[simp] theorem State.setX_mem (s : State) (r : Reg) (v : Word) : (s.setX r v).mem = s.mem := by
  unfold State.setX; split <;> rfl
@[simp] theorem State.setX_cfg (s : State) (r : Reg) (v : Word) : (s.setX r v).cfg = s.cfg := by
  unfold State.setX; split <;> rfl
@[simp] theorem State.setX_irq (s : State) (r : Reg) (v : Word) : (s.setX r v).irq = s.irq := by
  unfold State.setX; split <;> rfl
@[simp] theorem State.setX_draws (s : State) (r : Reg) (v : Word) : (s.setX r v).draws = s.draws := by
  unfold State.setX; split <;> rfl
@[simp] theorem State.setX_lastException (s : State) (r : Reg) (v : Word) : (s.setX r v).lastException = s.lastException := by
  unfold State.setX; split <;> rfl
@[simp] theorem State.setX_faultRecord (s : State) (r : Reg) (v : Word) : (s.setX r v).faultRecord = s.faultRecord := by
  unfold State.setX; split <;> rfl
@[simp] theorem State.setX_cp0Reg (s : State) (r : Reg) (v : Word) (j : Cp0Reg) : (s.setX r v).cp0Reg j = s.cp0Reg j := by
  unfold State.setX; split <;> rfl
@[simp] theorem State.setX_readByte (s : State) (r : Reg) (v : Word) (c : Word) : (s.setX r v).readByte c = s.readByte c := by
  unfold State.setX; split <;> rfl
@[simp] theorem State.setX_epc (s : State) (r : Reg) (v : Word) : (s.setX r v).epc = s.epc := by
  unfold State.setX; split <;> rfl

/-! ### The reading accessors see only what they read -/

theorem State.x_congr {s t : State} (h : t.regs = s.regs) (r : Reg) : t.x r = s.x r := by simp [State.x, h]

theorem State.cp0Reg_congr {s t : State} (h : t.cp0 = s.cp0) (i : Cp0Reg) : t.cp0Reg i = s.cp0Reg i := by
  simp [State.cp0Reg, h]

theorem State.readByte_congr {s t : State} (h : t.mem = s.mem) (a : Word) : t.readByte a = s.readByte a := by
  simp [State.readByte, h]

theorem State.readHalf_congr {s t : State} (h : ∀ a, t.readByte a = s.readByte a) (a : Word) :
    t.readHalf a = s.readHalf a := by simp [State.readHalf, h]

theorem State.readWord_congr {s t : State} (h : ∀ a, t.readByte a = s.readByte a) (a : Word) :
    t.readWord a = s.readWord a := by simp [State.readWord, h]

end Sys2Proof.Machine
end

