-- ==== Sys2Proof/Laws/Ops.lean ====
section
/-! SUPPORT. What each shared operation can do, said once: registers, memory and its canonical form, the exceptions,
and how an instruction ends. -/

namespace Sys2Proof.Machine

/-! ## Register files -/

@[simp] theorem RegFile.read_write_same (f : RegFile) (i : BitVec 5) (v : Word) :
    RegFile.read (RegFile.write f i v) i = v := by
  simp [RegFile.read, RegFile.write, Vector.get_eq_getElem]

theorem RegFile.read_write_other (f : RegFile) {i j : BitVec 5} (v : Word) (h : j ≠ i) :
    RegFile.read (RegFile.write f i v) j = RegFile.read f j := by
  have : i.toNat ≠ j.toNat := fun e => h (BitVec.eq_of_toNat_eq e.symm)
  simp [RegFile.read, RegFile.write, Vector.get_eq_getElem, this]

theorem RegFile.read_write (f : RegFile) (i j : BitVec 5) (v : Word) :
    RegFile.read (RegFile.write f i v) j = if j = i then v else RegFile.read f j := by
  by_cases h : j = i
  · subst h; simp
  · simp [h, RegFile.read_write_other]

/-! ## General registers -/

@[simp] theorem State.x_zero (s : State) : s.x 0#5 = 0#32 := by simp [State.x]

/-- Everything a write of a general register does to the registers (10_state.md R22). -/
theorem State.setX_x (s : State) (rd : Reg) (v : Word) (r : Reg) :
    (s.setX rd v).x r = if r = 0#5 then 0#32 else if r = rd then v else s.x r := by
  unfold State.setX State.x
  by_cases h0 : r = 0#5
  · simp [h0]
  · by_cases hd : rd = 0#5
    · have : r ≠ rd := fun e => h0 (e.trans hd)
      simp [hd, h0]
    · simp [h0, hd, RegFile.read_write]

/-- Slot 0 of the file is never written. -/
theorem State.setX_slotZero (s : State) (rd : Reg) (v : Word) :
    RegFile.read (s.setX rd v).regs 0#5 = RegFile.read s.regs 0#5 := by
  unfold State.setX
  split
  · rfl
  · rename_i h; exact RegFile.read_write_other _ _ (fun e => h e.symm)

/-! ## CP0 -/

theorem State.setCp0Reg_cp0Reg (s : State) (i j : Cp0Reg) (v : Word) :
    (s.setCp0Reg i v).cp0Reg j = if j = i then v else s.cp0Reg j := RegFile.read_write _ _ _ _

/-! ## Memory -/

@[simp] theorem Memory.read_write_same (m : Memory) (a : Nat) (b : Byte) :
    Memory.read (Memory.write m a b) a = some b := by
  induction m with
  | nil => simp [Memory.write, Memory.read]
  | cons c rest ih =>
    unfold Memory.write
    split
    · simp [Memory.read]
    · split
      · simp [Memory.read]
      · rename_i h; simp [Memory.read, h, ih]

theorem Memory.read_write_other (m : Memory) {a a' : Nat} (b : Byte) (h : a' ≠ a) :
    Memory.read (Memory.write m a b) a' = Memory.read m a' := by
  induction m with
  | nil => simp [Memory.write, Memory.read, h]
  | cons c rest ih =>
    unfold Memory.write
    split
    · simp [Memory.read, h]
    · split
      · rename_i hc; subst hc; simp [Memory.read, h]
      · simp [Memory.read, ih]

/-- A listed byte keeps every entry above a bound that the address and the entries are above. -/
theorem Memory.write_above {m : Memory} {k a : Nat} (b : Byte) (ha : k < a) (hm : ∀ c ∈ m, k < c.1) :
    ∀ c ∈ Memory.write m a b, k < c.1 := by
  induction m with
  | nil => simpa [Memory.write] using ha
  | cons d rest ih =>
    unfold Memory.write
    split
    · intro c hc
      rcases List.mem_cons.mp hc with rfl | hc
      · exact ha
      · exact hm c hc
    · split
      · intro c hc
        rcases List.mem_cons.mp hc with rfl | hc
        · exact ha
        · exact hm c (List.mem_cons_of_mem _ hc)
      · intro c hc
        rcases List.mem_cons.mp hc with rfl | hc
        · exact hm _ List.mem_cons_self
        · exact ih (fun c hc => hm c (List.mem_cons_of_mem _ hc)) c hc

theorem Memory.write_below {m : Memory} {k a : Nat} (b : Byte) (ha : a < k) (hm : ∀ c ∈ m, c.1 < k) :
    ∀ c ∈ Memory.write m a b, c.1 < k := by
  induction m with
  | nil => simpa [Memory.write] using ha
  | cons d rest ih =>
    unfold Memory.write
    split
    · intro c hc
      rcases List.mem_cons.mp hc with rfl | hc
      · exact ha
      · exact hm c hc
    · split
      · intro c hc
        rcases List.mem_cons.mp hc with rfl | hc
        · exact ha
        · exact hm c (List.mem_cons_of_mem _ hc)
      · intro c hc
        rcases List.mem_cons.mp hc with rfl | hc
        · exact hm _ List.mem_cons_self
        · exact ih (fun c hc => hm c (List.mem_cons_of_mem _ hc)) c hc

theorem Memory.write_rising {m : Memory} (a : Nat) (b : Byte) (h : m.Pairwise (fun c d => c.1 < d.1)) :
    (Memory.write m a b).Pairwise (fun c d => c.1 < d.1) := by
  induction m with
  | nil => simp [Memory.write]
  | cons d rest ih =>
    obtain ⟨hd, hr⟩ := List.pairwise_cons.mp h
    unfold Memory.write
    split
    · rename_i hlt
      refine List.pairwise_cons.mpr ⟨fun c hc => ?_, h⟩
      rcases List.mem_cons.mp hc with rfl | hc
      · exact hlt
      · exact Nat.lt_trans hlt (hd c hc)
    · split
      · rename_i heq
        exact List.pairwise_cons.mpr ⟨fun c hc => heq ▸ hd c hc, hr⟩
      · rename_i h1 h2
        exact List.pairwise_cons.mpr ⟨Memory.write_above b (by omega) hd, ih hr⟩

/-- A listed byte keeps the canonical form. -/
theorem Memory.write_wf {m : Memory} {a : Nat} (b : Byte) (ha : a < 4294967296) (h : Memory.wf m) :
    Memory.wf (Memory.write m a b) :=
  ⟨Memory.write_rising a b h.1, Memory.write_below b ha h.2⟩

theorem State.writeByte_readByte (s : State) (a c : Word) (b : Byte) :
    (s.writeByte a b).readByte c = if c = a then b else s.readByte c := by
  by_cases h : c = a
  · subst h; simp [State.readByte]
  · have : c.toNat ≠ a.toNat := fun e => h (BitVec.eq_of_toNat_eq e)
    simp [State.readByte, Memory.read_write_other, this, h]

theorem State.writeByte_wf (s : State) (a : Word) (b : Byte) (h : Memory.wf s.mem) :
    Memory.wf (s.writeByte a b).mem := Memory.write_wf b a.isLt h

theorem State.writeBytes_wf (s : State) (a w : Word) (n : Nat) (h : Memory.wf s.mem) :
    Memory.wf (s.writeBytes a w n).mem := by
  induction n with
  | zero => exact h
  | succ n ih => exact State.writeByte_wf _ _ _ ih

/-- A store writes memory alone. -/
theorem State.writeBytes_eq (s : State) (a w : Word) (n : Nat) :
    s.writeBytes a w n = { s with mem := (s.writeBytes a w n).mem } := by
  induction n with
  | zero => rfl
  | succ n ih => unfold State.writeBytes; rw [ih]; rfl

@[simp] theorem State.writeBytes_regs (s : State) (a w : Word) (n : Nat) : (s.writeBytes a w n).regs = s.regs := by
  rw [State.writeBytes_eq]
@[simp] theorem State.writeBytes_pc (s : State) (a w : Word) (n : Nat) : (s.writeBytes a w n).pc = s.pc := by
  rw [State.writeBytes_eq]
@[simp] theorem State.writeBytes_hi (s : State) (a w : Word) (n : Nat) : (s.writeBytes a w n).hi = s.hi := by
  rw [State.writeBytes_eq]
@[simp] theorem State.writeBytes_lo (s : State) (a w : Word) (n : Nat) : (s.writeBytes a w n).lo = s.lo := by
  rw [State.writeBytes_eq]
@[simp] theorem State.writeBytes_cp0 (s : State) (a w : Word) (n : Nat) : (s.writeBytes a w n).cp0 = s.cp0 := by
  rw [State.writeBytes_eq]
@[simp] theorem State.writeBytes_cfg (s : State) (a w : Word) (n : Nat) : (s.writeBytes a w n).cfg = s.cfg := by
  rw [State.writeBytes_eq]
@[simp] theorem State.writeBytes_irq (s : State) (a w : Word) (n : Nat) : (s.writeBytes a w n).irq = s.irq := by
  rw [State.writeBytes_eq]
@[simp] theorem State.writeBytes_draws (s : State) (a w : Word) (n : Nat) : (s.writeBytes a w n).draws = s.draws := by
  rw [State.writeBytes_eq]
@[simp] theorem State.writeBytes_lastException (s : State) (a w : Word) (n : Nat) : (s.writeBytes a w n).lastException = s.lastException := by
  rw [State.writeBytes_eq]
@[simp] theorem State.writeBytes_faultRecord (s : State) (a w : Word) (n : Nat) : (s.writeBytes a w n).faultRecord = s.faultRecord := by
  rw [State.writeBytes_eq]

/-- A byte outside the store reads as before. -/
theorem State.writeBytes_readByte_outside (s : State) (a w c : Word) (n : Nat)
    (h : ∀ k, k < n → c ≠ a + BitVec.ofNat 32 k) : (s.writeBytes a w n).readByte c = s.readByte c := by
  induction n with
  | zero => rfl
  | succ n ih =>
    unfold State.writeBytes
    rw [State.writeByte_readByte, if_neg (h n (Nat.lt_succ_self n))]
    exact ih fun k hk => h k (Nat.lt_succ_of_lt hk)

theorem addOffset_ne {a : Word} {j k : Nat} (hj : j < 4) (hk : k < 4) (h : j ≠ k) :
    a + BitVec.ofNat 32 j ≠ a + BitVec.ofNat 32 k := by
  intro e
  have := congrArg BitVec.toNat e
  simp only [BitVec.toNat_add, BitVec.toNat_ofNat] at this
  omega

/-- Byte `k` of the store reads back (00_scope.md R12). -/
theorem State.writeBytes_readByte_inside (s : State) (a w : Word) {n k : Nat} (hn : n ≤ 4) (h : k < n) :
    (s.writeBytes a w n).readByte (a + BitVec.ofNat 32 k) = byteOfWord w k := by
  induction n with
  | zero => omega
  | succ n ih =>
    unfold State.writeBytes
    rw [State.writeByte_readByte]
    by_cases e : k = n
    · subst e; simp
    · rw [if_neg (addOffset_ne (by omega) (by omega) e)]
      exact ih (by omega) (by omega)

/-! ## Exceptions -/

@[simp] theorem State.cp0Processing_regs (s : State) (ev : Cp0Event) :
    (s.cp0Processing ev).regs = s.regs := by simp [State.cp0Processing]
@[simp] theorem State.cp0Processing_pc (s : State) (ev : Cp0Event) :
    (s.cp0Processing ev).pc = s.pc := by simp [State.cp0Processing]
@[simp] theorem State.cp0Processing_hi (s : State) (ev : Cp0Event) :
    (s.cp0Processing ev).hi = s.hi := by simp [State.cp0Processing]
@[simp] theorem State.cp0Processing_lo (s : State) (ev : Cp0Event) :
    (s.cp0Processing ev).lo = s.lo := by simp [State.cp0Processing]
@[simp] theorem State.cp0Processing_mem (s : State) (ev : Cp0Event) :
    (s.cp0Processing ev).mem = s.mem := by simp [State.cp0Processing]
@[simp] theorem State.cp0Processing_cfg (s : State) (ev : Cp0Event) :
    (s.cp0Processing ev).cfg = s.cfg := by simp [State.cp0Processing]
@[simp] theorem State.cp0Processing_irq (s : State) (ev : Cp0Event) :
    (s.cp0Processing ev).irq = s.irq := by simp [State.cp0Processing]
@[simp] theorem State.cp0Processing_draws (s : State) (ev : Cp0Event) :
    (s.cp0Processing ev).draws = s.draws + 1 := by simp [State.cp0Processing]
@[simp] theorem State.cp0Processing_lastException (s : State) (ev : Cp0Event) :
    (s.cp0Processing ev).lastException = s.lastException := by simp [State.cp0Processing]
@[simp] theorem State.cp0Processing_faultRecord (s : State) (ev : Cp0Event) :
    (s.cp0Processing ev).faultRecord = s.faultRecord := by simp [State.cp0Processing]
@[simp] theorem State.cp0Processing_x (s : State) (ev : Cp0Event) (r : Reg) :
    (s.cp0Processing ev).x r = s.x r := State.x_congr (by simp) r
@[simp] theorem State.cp0Processing_readByte (s : State) (ev : Cp0Event) (a : Word) :
    (s.cp0Processing ev).readByte a = s.readByte a := State.readByte_congr (by simp) a

@[simp] theorem State.setPc_cp0Draws (s : State) (v : Word) : (s.setPc v).cp0Draws = s.cp0Draws := rfl
@[simp] theorem State.recordException_cp0Draws (s : State) (k : ExcKind) :
    (s.recordException k).cp0Draws = s.cp0Draws := rfl

theorem Config.read_cp0FileAfter (c : Config) (ev : Cp0Event) (before : RegFile) (drawn : Cp0Reg → Word) (i : Cp0Reg) :
    RegFile.read (Config.cp0FileAfter c ev before drawn) i =
      if i = c.epcIndex then RegFile.read before i else Config.cp0After c ev i before drawn := by
  simp [Config.cp0FileAfter, RegFile.read, Vector.get_eq_getElem]

/-- What the processing leaves in each CP0 register. -/
theorem State.cp0Processing_cp0Reg (s : State) (ev : Cp0Event) (i : Cp0Reg) :
    (s.cp0Processing ev).cp0Reg i =
      if i = s.cfg.epcIndex then s.cp0Reg i else Config.cp0After s.cfg ev i s.cp0 (s.cp0Draws ev) := by
  simp only [State.cp0Processing, State.cp0Reg, State.countDraw_cp0, State.setCp0_cp0, Config.read_cp0FileAfter]

@[simp] theorem State.cp0Processing_epc (s : State) (ev : Cp0Event) : (s.cp0Processing ev).epc = s.epc := by
  simp [State.epc, State.cp0Processing_cp0Reg]

@[simp] theorem State.enterException_regs (s : State) (k : ExcKind) (v : Word) :
    (s.enterException k v).regs = s.regs := by simp [State.enterException]
@[simp] theorem State.enterException_pc (s : State) (k : ExcKind) (v : Word) :
    (s.enterException k v).pc = s.cfg.excHandler := by simp [State.enterException]
@[simp] theorem State.enterException_hi (s : State) (k : ExcKind) (v : Word) :
    (s.enterException k v).hi = s.hi := by simp [State.enterException]
@[simp] theorem State.enterException_lo (s : State) (k : ExcKind) (v : Word) :
    (s.enterException k v).lo = s.lo := by simp [State.enterException]
@[simp] theorem State.enterException_mem (s : State) (k : ExcKind) (v : Word) :
    (s.enterException k v).mem = s.mem := by simp [State.enterException]
@[simp] theorem State.enterException_cfg (s : State) (k : ExcKind) (v : Word) :
    (s.enterException k v).cfg = s.cfg := by simp [State.enterException]
@[simp] theorem State.enterException_irq (s : State) (k : ExcKind) (v : Word) :
    (s.enterException k v).irq = s.irq := by simp [State.enterException]
@[simp] theorem State.enterException_draws (s : State) (k : ExcKind) (v : Word) :
    (s.enterException k v).draws = s.draws + 1 := by simp [State.enterException]
@[simp] theorem State.enterException_lastException (s : State) (k : ExcKind) (v : Word) :
    (s.enterException k v).lastException = some { kind := k, pc := s.pc } := by simp [State.enterException]
@[simp] theorem State.enterException_faultRecord (s : State) (k : ExcKind) (v : Word) :
    (s.enterException k v).faultRecord = s.faultRecord := by simp [State.enterException]
@[simp] theorem State.enterException_x (s : State) (k : ExcKind) (v : Word) (r : Reg) :
    (s.enterException k v).x r = s.x r := State.x_congr (by simp) r
@[simp] theorem State.enterException_readByte (s : State) (k : ExcKind) (v : Word) (a : Word) :
    (s.enterException k v).readByte a = s.readByte a := State.readByte_congr (by simp) a

/-- What entry leaves in each CP0 register (60_exceptions.md R226). -/
theorem State.enterException_cp0Reg (s : State) (k : ExcKind) (v : Word) (i : Cp0Reg) :
    (s.enterException k v).cp0Reg i =
      if i = s.cfg.epcIndex then v else Config.cp0After s.cfg (.entry k) i s.cp0 (s.cp0Draws (.entry k)) := by
  simp only [State.enterException, State.setPc_cp0Reg, State.setCp0Reg_cp0Reg, State.cp0Processing_cp0Reg]
  by_cases h : i = s.cfg.epcIndex <;> simp [h]

@[simp] theorem State.enterException_epc (s : State) (k : ExcKind) (v : Word) : (s.enterException k v).epc = v := by
  simp [State.epc, State.enterException_cp0Reg]

/-! ## How an instruction ends -/

/-- All a load can do (40_load.md R100). -/
theorem loadInto_cases (s : State) (n : AccessWidth) (a : Word) (rt : Reg) (v : Word) :
    (AccessWidth.aligned n a = true ∧ Config.admitsAccess s.cfg a n .load = true ∧
      loadInto s n a rt v = .next ((s.setX rt v).advancePc)) ∨
    (AccessWidth.aligned n a = true ∧ Config.admitsAccess s.cfg a n .load = false ∧
      loadInto s n a rt v = .fault (.memNotAdmitted .load s.pc a)) ∨
    (AccessWidth.aligned n a = false ∧ loadInto s n a rt v = .next (s.raiseAddressError a .load)) := by
  unfold loadInto writeBack
  cases AccessWidth.aligned n a <;> cases Config.admitsAccess s.cfg a n .load <;> simp

/-- All a store can do (41_store.md R110). -/
theorem storeFrom_cases (s : State) (n : AccessWidth) (a v : Word) :
    (AccessWidth.aligned n a = true ∧ Config.touchesText s.cfg a (AccessWidth.bytes n) = false ∧
      Config.admitsAccess s.cfg a n .store = true ∧
      storeFrom s n a v = .next ((s.writeBytes a v (AccessWidth.bytes n)).advancePc)) ∨
    (AccessWidth.aligned n a = true ∧ Config.touchesText s.cfg a (AccessWidth.bytes n) = true ∧
      storeFrom s n a v = .fault (.storeToText s.pc a)) ∨
    (AccessWidth.aligned n a = true ∧ Config.touchesText s.cfg a (AccessWidth.bytes n) = false ∧
      Config.admitsAccess s.cfg a n .store = false ∧
      storeFrom s n a v = .fault (.memNotAdmitted .store s.pc a)) ∨
    (AccessWidth.aligned n a = false ∧ storeFrom s n a v = .next (s.raiseAddressError a .store)) := by
  unfold storeFrom
  cases AccessWidth.aligned n a <;> cases Config.touchesText s.cfg a (AccessWidth.bytes n) <;>
    cases Config.admitsAccess s.cfg a n .store <;> simp

/-- No byte of a store that does not touch TEXT lies in TEXT. -/
theorem Config.touchesText_false {c : Config} {a : Word} {n : Nat} (h : Config.touchesText c a n = false) :
    ∀ k, k < n → Config.inText c (a + BitVec.ofNat 32 k) = false := by
  induction n with
  | zero => intro k hk; omega
  | succ n ih =>
    simp only [Config.touchesText, Bool.or_eq_false_iff] at h
    intro k hk
    by_cases e : k = n
    · subst e; exact h.2
    · exact ih h.1 k (by omega)

end Sys2Proof.Machine
end

