-- ==== Sys2Proof/Laws/Exec.lean ====
section
/-! SUPPORT. All that executing one instruction can do, said once, so that a law of every instruction is a case
analysis over the shapes an outcome can have. -/

namespace Sys2Proof.Machine

/-- The outcomes of executing `i` in `s`, each with what it says of `i`. -/
inductive Effect (i : Instr) (s : State) : Result → Prop
  /-- A general register is written. -/
  | writes (r : Reg) (v : Word)
      (hi : i.mnemonic ∉ ["SB", "SH", "SW", "MULT", "MULTU", "DIV", "DIVU", "MTHI", "MTLO", "JR", "JALR", "MTC0", "ERET",
        "BREAK", "SYSCALL"]) : Effect i s (.next ((s.setX r v).advancePc))
  /-- HI and LO are written, and perhaps a draw is counted. -/
  | writesHiLo (hi lo : Word) (draws : Nat)
      (h : i.mnemonic ∈ ["MULT", "MULTU", "DIV", "DIVU", "MTHI", "MTLO"]) :
      Effect i s (.next (((State.setHi { s with draws := draws } hi).setLo lo).advancePc))
  /-- The low bytes of a register are stored. -/
  | stores (n : AccessWidth) (base rt : Reg) (offset : BitVec 16)
      (ha : AccessWidth.aligned n (effectiveAddress s base offset) = true)
      (ht : Config.touchesText s.cfg (effectiveAddress s base offset) (AccessWidth.bytes n) = false)
      (hm : Config.admitsAccess s.cfg (effectiveAddress s base offset) n .store = true)
      (hi : (n = .byte ∧ i = .sb base rt offset) ∨ (n = .half ∧ i = .sh base rt offset) ∨
        (n = .word ∧ i = .sw base rt offset)) :
      Effect i s (.next ((s.writeBytes (effectiveAddress s base offset) (s.x rt) (AccessWidth.bytes n)).advancePc))
  /-- Control goes elsewhere, or on; from an aligned pc only JR can misalign it. -/
  | goes (target : Word) (hi : i.mnemonic ∈ ["BEQ", "BNE", "BLEZ", "BGTZ", "BLTZ", "BGEZ", "J", "JR"])
      (h : i.mnemonic ≠ "JR" → s.pc.toNat % 4 = 0 → target.toNat % 4 = 0) : Effect i s (.next (s.setPc target))
  /-- Control goes elsewhere and the next address is linked; only JALR can misalign pc. -/
  | links (r : Reg) (target : Word) (hi : i.mnemonic ∈ ["JAL", "JALR"])
      (h : i.mnemonic ≠ "JALR" → target.toNat % 4 = 0) : Effect i s (.next ((s.setX r (s.pc + 4#32)).setPc target))
  /-- ERET. -/
  | returns (hi : i = .eret) : Effect i s (.next s.returnFromException)
  /-- MTC0. -/
  | writesCp0 (rt : Reg) (rd : Cp0Reg) (hi : i = .mtc0 rt rd) : Effect i s (.next ((s.setCp0Reg rd (s.x rt)).advancePc))
  /-- BREAK. -/
  | breaks (code : BitVec 20) (hi : i = .brk code) : Effect i s (.next (s.raiseTrap .breakpoint))
  /-- SYSCALL. -/
  | calls (code : BitVec 20) (hi : i = .syscall code) : Effect i s (.next (s.raiseTrap .systemCall))
  /-- ADD, SUB or ADDI overflows. -/
  | overflows
      (hi : (∃ rs rt rd, i = .add rs rt rd ∧ Machine.overflows (sum33 (s.x rs) (s.x rt)) = true) ∨
        (∃ rs rt rd, i = .sub rs rt rd ∧ Machine.overflows (difference33 (s.x rs) (s.x rt)) = true) ∨
        (∃ rs rt imm, i = .addi rs rt imm ∧ Machine.overflows (sum33 (s.x rs) (signedImm imm)) = true)) :
      Effect i s (.next s.raiseOverflow)
  /-- A data access is misaligned. -/
  | misaligned (n : AccessWidth) (base rt : Reg) (offset : BitVec 16) (access : DataAccess)
      (ha : AccessWidth.aligned n (effectiveAddress s base offset) = false)
      (hi : (access = .load ∧ ((n = .half ∧ (i = .lh base rt offset ∨ i = .lhu base rt offset)) ∨
          (n = .word ∧ i = .lw base rt offset))) ∨
        (access = .store ∧ ((n = .half ∧ i = .sh base rt offset) ∨ (n = .word ∧ i = .sw base rt offset)))) :
      Effect i s (.next (s.raiseAddressError (effectiveAddress s base offset) access))
  /-- A load is not admitted. -/
  | loadFaults (n : AccessWidth) (base rt : Reg) (offset : BitVec 16)
      (ha : AccessWidth.aligned n (effectiveAddress s base offset) = true)
      (hm : Config.admitsAccess s.cfg (effectiveAddress s base offset) n .load = false)
      (hi : (n = .byte ∧ (i = .lb base rt offset ∨ i = .lbu base rt offset)) ∨
        (n = .half ∧ (i = .lh base rt offset ∨ i = .lhu base rt offset)) ∨ (n = .word ∧ i = .lw base rt offset)) :
      Effect i s (.fault (.memNotAdmitted .load s.pc (effectiveAddress s base offset)))
  /-- A store touches TEXT, or is not admitted. -/
  | storeFaults (n : AccessWidth) (base rt : Reg) (offset : BitVec 16) (f : Fault)
      (ha : AccessWidth.aligned n (effectiveAddress s base offset) = true)
      (hf : (f = .storeToText s.pc (effectiveAddress s base offset) ∧
          Config.touchesText s.cfg (effectiveAddress s base offset) (AccessWidth.bytes n) = true) ∨
        (f = .memNotAdmitted .store s.pc (effectiveAddress s base offset) ∧
          Config.touchesText s.cfg (effectiveAddress s base offset) (AccessWidth.bytes n) = false ∧
          Config.admitsAccess s.cfg (effectiveAddress s base offset) n .store = false))
      (hi : (n = .byte ∧ i = .sb base rt offset) ∨ (n = .half ∧ i = .sh base rt offset) ∨
        (n = .word ∧ i = .sw base rt offset)) :
      Effect i s (.fault f)

/-! ## Targets stay aligned -/

/-- A word whose two low bits are 00 is a multiple of 4. -/
theorem append_zeros_aligned {n : Nat} (v : BitVec n) : (v ++ 0#2).toNat % 4 = 0 := by
  rw [BitVec.toNat_append]
  simp only [BitVec.toNat_ofNat, Nat.zero_mod, Nat.or_zero, Nat.shiftLeft_eq]
  omega

theorem signExtend_aligned (v : BitVec 16) : ((v ++ 0#2).signExtend 32).toNat % 4 = 0 := by
  rw [BitVec.toNat_signExtend]
  have h := append_zeros_aligned v
  have := (v ++ 0#2).isLt
  simp only [BitVec.toNat_setWidth]
  split <;> omega

/-- 44_branch.md: the appended zeros keep the target a multiple of 4. -/
theorem branchTarget_aligned {s : State} (offset : BitVec 16) (h : s.pc.toNat % 4 = 0) :
    (branchTarget s offset).toNat % 4 = 0 := by
  have := signExtend_aligned offset
  simp only [branchTarget, BitVec.toNat_add, BitVec.toNat_ofNat]
  omega

theorem jumpTarget_aligned (s : State) (index : BitVec 26) : (jumpTarget s index).toNat % 4 = 0 :=
  append_zeros_aligned _

/-! ## Each shape -/

theorem effect_load (i : Instr) (s : State) (n : AccessWidth) (base rt : Reg) (offset : BitVec 16) (v : Word)
    (hi : (n = .byte ∧ (i = .lb base rt offset ∨ i = .lbu base rt offset)) ∨
      (n = .half ∧ (i = .lh base rt offset ∨ i = .lhu base rt offset)) ∨ (n = .word ∧ i = .lw base rt offset)) :
    Effect i s (loadInto s n (effectiveAddress s base offset) rt v) := by
  rcases loadInto_cases s n (effectiveAddress s base offset) rt v with h | h | h
  · rw [h.2.2]
    refine .writes _ _ ?_
    rcases hi with ⟨_, rfl | rfl⟩ | ⟨_, rfl | rfl⟩ | ⟨_, rfl⟩ <;> simp [Instr.mnemonic]
  · rw [h.2.2]
    exact .loadFaults n base rt offset h.1 h.2.1 hi
  · rw [h.2]
    refine .misaligned n base rt offset _ h.1 (.inl ⟨rfl, ?_⟩)
    rcases hi with ⟨rfl, _⟩ | h' | h'
    · exact absurd h.1 (by simp [AccessWidth.aligned])
    · exact .inl h'
    · exact .inr h'

theorem effect_store (i : Instr) (s : State) (n : AccessWidth) (base rt : Reg) (offset : BitVec 16)
    (hi : (n = .byte ∧ i = .sb base rt offset) ∨ (n = .half ∧ i = .sh base rt offset) ∨
      (n = .word ∧ i = .sw base rt offset)) :
    Effect i s (storeFrom s n (effectiveAddress s base offset) (s.x rt)) := by
  rcases storeFrom_cases s n (effectiveAddress s base offset) (s.x rt) with h | h | h | h
  · rw [h.2.2.2]
    exact .stores n base rt offset h.1 h.2.1 h.2.2.1 hi
  · rw [h.2.2]
    exact .storeFaults n base rt offset _ h.1 (.inl ⟨rfl, h.2.1⟩) hi
  · rw [h.2.2.2]
    exact .storeFaults n base rt offset _ h.1 (.inr ⟨rfl, h.2.1, h.2.2.1⟩) hi
  · rw [h.2]
    refine .misaligned n base rt offset _ h.1 (.inr ⟨rfl, ?_⟩)
    rcases hi with ⟨rfl, _⟩ | h' | h'
    · exact absurd h.1 (by simp [AccessWidth.aligned])
    · exact .inl h'
    · exact .inr h'

theorem effect_branch (i : Instr) (s : State) (taken : Bool) (offset : BitVec 16)
    (hi : i.mnemonic ∈ ["BEQ", "BNE", "BLEZ", "BGTZ", "BLTZ", "BGEZ", "J", "JR"]) :
    Effect i s (branchIf s taken (branchTarget s offset)) := by
  cases taken with
  | true => exact .goes _ hi fun _ h => branchTarget_aligned offset h
  | false => exact .goes _ hi fun _ h => by simp only [BitVec.toNat_add, BitVec.toNat_ofNat]; omega

/-- Executing an instruction does one of these things. -/
theorem exec_effect (i : Instr) (s : State) : Effect i s (exec i s) := by
  cases i with
  | lb base rt offset => exact effect_load _ s .byte base rt offset _ (by simp)
  | lbu base rt offset => exact effect_load _ s .byte base rt offset _ (by simp)
  | lh base rt offset => exact effect_load _ s .half base rt offset _ (by simp)
  | lhu base rt offset => exact effect_load _ s .half base rt offset _ (by simp)
  | lw base rt offset => exact effect_load _ s .word base rt offset _ (by simp)
  | sb base rt offset => exact effect_store _ s .byte base rt offset (by simp)
  | sh base rt offset => exact effect_store _ s .half base rt offset (by simp)
  | sw base rt offset => exact effect_store _ s .word base rt offset (by simp)
  | add rs rt rd =>
    simp only [exec, execAdd, writeChecked]; split
    · exact .overflows (.inl ⟨_, _, _, rfl, ‹_›⟩)
    · exact .writes _ _ (by simp [Instr.mnemonic])
  | sub rs rt rd =>
    simp only [exec, execSub, writeChecked]; split
    · exact .overflows (.inr (.inl ⟨_, _, _, rfl, ‹_›⟩))
    · exact .writes _ _ (by simp [Instr.mnemonic])
  | addi rs rt imm =>
    simp only [exec, execAddi, writeChecked]; split
    · exact .overflows (.inr (.inr ⟨_, _, _, rfl, ‹_›⟩))
    · exact .writes _ _ (by simp [Instr.mnemonic])
  | mult rs rt => exact .writesHiLo _ _ s.draws (by simp [Instr.mnemonic])
  | multu rs rt => exact .writesHiLo _ _ s.draws (by simp [Instr.mnemonic])
  | div rs rt =>
    simp only [exec, execDiv]; split
    · exact .writesHiLo _ _ (s.draws + 1) (by simp [Instr.mnemonic])
    · exact .writesHiLo _ _ s.draws (by simp [Instr.mnemonic])
  | divu rs rt =>
    simp only [exec, execDivu]; split
    · exact .writesHiLo _ _ (s.draws + 1) (by simp [Instr.mnemonic])
    · exact .writesHiLo _ _ s.draws (by simp [Instr.mnemonic])
  | mthi rs => exact .writesHiLo (i := .mthi rs) (s.x rs) s.lo s.draws (by simp [Instr.mnemonic])
  | mtlo rs => exact .writesHiLo (i := .mtlo rs) s.hi (s.x rs) s.draws (by simp [Instr.mnemonic])
  | beq rs rt offset => exact effect_branch _ _ _ _ (by simp [Instr.mnemonic])
  | bne rs rt offset => exact effect_branch _ _ _ _ (by simp [Instr.mnemonic])
  | blez rs offset => exact effect_branch _ _ _ _ (by simp [Instr.mnemonic])
  | bgtz rs offset => exact effect_branch _ _ _ _ (by simp [Instr.mnemonic])
  | bltz rs offset => exact effect_branch _ _ _ _ (by simp [Instr.mnemonic])
  | bgez rs offset => exact effect_branch _ _ _ _ (by simp [Instr.mnemonic])
  | j index => exact .goes _ (by simp [Instr.mnemonic]) fun _ _ => jumpTarget_aligned s index
  | jr rs => exact .goes _ (by simp [Instr.mnemonic]) (by simp [Instr.mnemonic])
  | jal index => exact .links _ _ (by simp [Instr.mnemonic]) fun _ => jumpTarget_aligned s index
  | jalr rs rd => exact .links _ _ (by simp [Instr.mnemonic]) (by simp [Instr.mnemonic])
  | eret => exact .returns rfl
  | mtc0 rt rd => exact .writesCp0 _ _ rfl
  | brk code => exact .breaks _ rfl
  | syscall code => exact .calls _ rfl
  | addu | subu | slt | sltu | sll | srl | sra | sllv | srlv | srav | and | or | xor | nor | addiu | andi | ori | xori | lui
  | slti | sltiu | mfhi | mflo | mfc0 => exact .writes _ _ (by simp [Instr.mnemonic])

end Sys2Proof.Machine
end

