-- ==== Sys2Proof/Laws/PerInstr.lean ====
section
/-! SUPPORT. Statements made instruction by instruction. EncodedInRow: an instruction's word matches the row of the
opcode table (30_encoding.md R75) that has its mnemonic. -/

namespace Sys2Proof.Laws.EncodedInRow

/-- The word of the instruction matches the row of R75 that has its mnemonic. -/
def Statement (i : Instr) : Prop := ∃ r ∈ opcodeTable, r.mnemonic = i.mnemonic ∧ encode i &&& r.mask = r.pattern

theorem lb (base rt : Reg) (offset : BitVec 16) : Statement (.lb base rt offset) :=
  ⟨OpcodeRow.mk "LB" 0x80000000#32 0xFC000000#32, by decide, rfl,
    (encodeI_and 0b100000#6 63 base 0 rt 0 offset 0).trans (by simp only [BitVec.ofNat_eq_ofNat, BitVec.and_zero]; rfl)⟩

theorem lbu (base rt : Reg) (offset : BitVec 16) : Statement (.lbu base rt offset) :=
  ⟨OpcodeRow.mk "LBU" 0x90000000#32 0xFC000000#32, by decide, rfl,
    (encodeI_and 0b100100#6 63 base 0 rt 0 offset 0).trans (by simp only [BitVec.ofNat_eq_ofNat, BitVec.and_zero]; rfl)⟩

theorem lh (base rt : Reg) (offset : BitVec 16) : Statement (.lh base rt offset) :=
  ⟨OpcodeRow.mk "LH" 0x84000000#32 0xFC000000#32, by decide, rfl,
    (encodeI_and 0b100001#6 63 base 0 rt 0 offset 0).trans (by simp only [BitVec.ofNat_eq_ofNat, BitVec.and_zero]; rfl)⟩

theorem lhu (base rt : Reg) (offset : BitVec 16) : Statement (.lhu base rt offset) :=
  ⟨OpcodeRow.mk "LHU" 0x94000000#32 0xFC000000#32, by decide, rfl,
    (encodeI_and 0b100101#6 63 base 0 rt 0 offset 0).trans (by simp only [BitVec.ofNat_eq_ofNat, BitVec.and_zero]; rfl)⟩

theorem lw (base rt : Reg) (offset : BitVec 16) : Statement (.lw base rt offset) :=
  ⟨OpcodeRow.mk "LW" 0x8C000000#32 0xFC000000#32, by decide, rfl,
    (encodeI_and 0b100011#6 63 base 0 rt 0 offset 0).trans (by simp only [BitVec.ofNat_eq_ofNat, BitVec.and_zero]; rfl)⟩

theorem sb (base rt : Reg) (offset : BitVec 16) : Statement (.sb base rt offset) :=
  ⟨OpcodeRow.mk "SB" 0xA0000000#32 0xFC000000#32, by decide, rfl,
    (encodeI_and 0b101000#6 63 base 0 rt 0 offset 0).trans (by simp only [BitVec.ofNat_eq_ofNat, BitVec.and_zero]; rfl)⟩

theorem sh (base rt : Reg) (offset : BitVec 16) : Statement (.sh base rt offset) :=
  ⟨OpcodeRow.mk "SH" 0xA4000000#32 0xFC000000#32, by decide, rfl,
    (encodeI_and 0b101001#6 63 base 0 rt 0 offset 0).trans (by simp only [BitVec.ofNat_eq_ofNat, BitVec.and_zero]; rfl)⟩

theorem sw (base rt : Reg) (offset : BitVec 16) : Statement (.sw base rt offset) :=
  ⟨OpcodeRow.mk "SW" 0xAC000000#32 0xFC000000#32, by decide, rfl,
    (encodeI_and 0b101011#6 63 base 0 rt 0 offset 0).trans (by simp only [BitVec.ofNat_eq_ofNat, BitVec.and_zero]; rfl)⟩

theorem add (rs rt rd : Reg) : Statement (.add rs rt rd) :=
  ⟨OpcodeRow.mk "ADD" 0x00000020#32 0xFC0007FF#32, by decide, rfl,
    (wordOfFields_and 0 63 rs 0 rt 0 rd 0 0 31 0b100000#6 63).trans (by simp only [BitVec.ofNat_eq_ofNat, BitVec.and_zero]; rfl)⟩

theorem addu (rs rt rd : Reg) : Statement (.addu rs rt rd) :=
  ⟨OpcodeRow.mk "ADDU" 0x00000021#32 0xFC0007FF#32, by decide, rfl,
    (wordOfFields_and 0 63 rs 0 rt 0 rd 0 0 31 0b100001#6 63).trans (by simp only [BitVec.ofNat_eq_ofNat, BitVec.and_zero]; rfl)⟩

theorem sub (rs rt rd : Reg) : Statement (.sub rs rt rd) :=
  ⟨OpcodeRow.mk "SUB" 0x00000022#32 0xFC0007FF#32, by decide, rfl,
    (wordOfFields_and 0 63 rs 0 rt 0 rd 0 0 31 0b100010#6 63).trans (by simp only [BitVec.ofNat_eq_ofNat, BitVec.and_zero]; rfl)⟩

theorem subu (rs rt rd : Reg) : Statement (.subu rs rt rd) :=
  ⟨OpcodeRow.mk "SUBU" 0x00000023#32 0xFC0007FF#32, by decide, rfl,
    (wordOfFields_and 0 63 rs 0 rt 0 rd 0 0 31 0b100011#6 63).trans (by simp only [BitVec.ofNat_eq_ofNat, BitVec.and_zero]; rfl)⟩

theorem mult (rs rt : Reg) : Statement (.mult rs rt) :=
  ⟨OpcodeRow.mk "MULT" 0x00000018#32 0xFC00FFFF#32, by decide, rfl,
    (wordOfFields_and 0 63 rs 0 rt 0 0 31 0 31 0b011000#6 63).trans (by simp only [BitVec.ofNat_eq_ofNat, BitVec.and_zero]; rfl)⟩

theorem multu (rs rt : Reg) : Statement (.multu rs rt) :=
  ⟨OpcodeRow.mk "MULTU" 0x00000019#32 0xFC00FFFF#32, by decide, rfl,
    (wordOfFields_and 0 63 rs 0 rt 0 0 31 0 31 0b011001#6 63).trans (by simp only [BitVec.ofNat_eq_ofNat, BitVec.and_zero]; rfl)⟩

theorem div (rs rt : Reg) : Statement (.div rs rt) :=
  ⟨OpcodeRow.mk "DIV" 0x0000001A#32 0xFC00FFFF#32, by decide, rfl,
    (wordOfFields_and 0 63 rs 0 rt 0 0 31 0 31 0b011010#6 63).trans (by simp only [BitVec.ofNat_eq_ofNat, BitVec.and_zero]; rfl)⟩

theorem divu (rs rt : Reg) : Statement (.divu rs rt) :=
  ⟨OpcodeRow.mk "DIVU" 0x0000001B#32 0xFC00FFFF#32, by decide, rfl,
    (wordOfFields_and 0 63 rs 0 rt 0 0 31 0 31 0b011011#6 63).trans (by simp only [BitVec.ofNat_eq_ofNat, BitVec.and_zero]; rfl)⟩

theorem slt (rs rt rd : Reg) : Statement (.slt rs rt rd) :=
  ⟨OpcodeRow.mk "SLT" 0x0000002A#32 0xFC0007FF#32, by decide, rfl,
    (wordOfFields_and 0 63 rs 0 rt 0 rd 0 0 31 0b101010#6 63).trans (by simp only [BitVec.ofNat_eq_ofNat, BitVec.and_zero]; rfl)⟩

theorem sltu (rs rt rd : Reg) : Statement (.sltu rs rt rd) :=
  ⟨OpcodeRow.mk "SLTU" 0x0000002B#32 0xFC0007FF#32, by decide, rfl,
    (wordOfFields_and 0 63 rs 0 rt 0 rd 0 0 31 0b101011#6 63).trans (by simp only [BitVec.ofNat_eq_ofNat, BitVec.and_zero]; rfl)⟩

theorem sll (rt rd : Reg) (amount : BitVec 5) : Statement (.sll rt rd amount) :=
  ⟨OpcodeRow.mk "SLL" 0x00000000#32 0xFFE0003F#32, by decide, rfl,
    (wordOfFields_and 0 63 0 31 rt 0 rd 0 amount 0 0b000000#6 63).trans (by simp only [BitVec.ofNat_eq_ofNat, BitVec.and_zero]; rfl)⟩

theorem srl (rt rd : Reg) (amount : BitVec 5) : Statement (.srl rt rd amount) :=
  ⟨OpcodeRow.mk "SRL" 0x00000002#32 0xFFE0003F#32, by decide, rfl,
    (wordOfFields_and 0 63 0 31 rt 0 rd 0 amount 0 0b000010#6 63).trans (by simp only [BitVec.ofNat_eq_ofNat, BitVec.and_zero]; rfl)⟩

theorem sra (rt rd : Reg) (amount : BitVec 5) : Statement (.sra rt rd amount) :=
  ⟨OpcodeRow.mk "SRA" 0x00000003#32 0xFFE0003F#32, by decide, rfl,
    (wordOfFields_and 0 63 0 31 rt 0 rd 0 amount 0 0b000011#6 63).trans (by simp only [BitVec.ofNat_eq_ofNat, BitVec.and_zero]; rfl)⟩

theorem sllv (rs rt rd : Reg) : Statement (.sllv rs rt rd) :=
  ⟨OpcodeRow.mk "SLLV" 0x00000004#32 0xFC0007FF#32, by decide, rfl,
    (wordOfFields_and 0 63 rs 0 rt 0 rd 0 0 31 0b000100#6 63).trans (by simp only [BitVec.ofNat_eq_ofNat, BitVec.and_zero]; rfl)⟩

theorem srlv (rs rt rd : Reg) : Statement (.srlv rs rt rd) :=
  ⟨OpcodeRow.mk "SRLV" 0x00000006#32 0xFC0007FF#32, by decide, rfl,
    (wordOfFields_and 0 63 rs 0 rt 0 rd 0 0 31 0b000110#6 63).trans (by simp only [BitVec.ofNat_eq_ofNat, BitVec.and_zero]; rfl)⟩

theorem srav (rs rt rd : Reg) : Statement (.srav rs rt rd) :=
  ⟨OpcodeRow.mk "SRAV" 0x00000007#32 0xFC0007FF#32, by decide, rfl,
    (wordOfFields_and 0 63 rs 0 rt 0 rd 0 0 31 0b000111#6 63).trans (by simp only [BitVec.ofNat_eq_ofNat, BitVec.and_zero]; rfl)⟩

theorem and (rs rt rd : Reg) : Statement (.and rs rt rd) :=
  ⟨OpcodeRow.mk "AND" 0x00000024#32 0xFC0007FF#32, by decide, rfl,
    (wordOfFields_and 0 63 rs 0 rt 0 rd 0 0 31 0b100100#6 63).trans (by simp only [BitVec.ofNat_eq_ofNat, BitVec.and_zero]; rfl)⟩

theorem or (rs rt rd : Reg) : Statement (.or rs rt rd) :=
  ⟨OpcodeRow.mk "OR" 0x00000025#32 0xFC0007FF#32, by decide, rfl,
    (wordOfFields_and 0 63 rs 0 rt 0 rd 0 0 31 0b100101#6 63).trans (by simp only [BitVec.ofNat_eq_ofNat, BitVec.and_zero]; rfl)⟩

theorem xor (rs rt rd : Reg) : Statement (.xor rs rt rd) :=
  ⟨OpcodeRow.mk "XOR" 0x00000026#32 0xFC0007FF#32, by decide, rfl,
    (wordOfFields_and 0 63 rs 0 rt 0 rd 0 0 31 0b100110#6 63).trans (by simp only [BitVec.ofNat_eq_ofNat, BitVec.and_zero]; rfl)⟩

theorem nor (rs rt rd : Reg) : Statement (.nor rs rt rd) :=
  ⟨OpcodeRow.mk "NOR" 0x00000027#32 0xFC0007FF#32, by decide, rfl,
    (wordOfFields_and 0 63 rs 0 rt 0 rd 0 0 31 0b100111#6 63).trans (by simp only [BitVec.ofNat_eq_ofNat, BitVec.and_zero]; rfl)⟩

theorem addi (rs rt : Reg) (imm : BitVec 16) : Statement (.addi rs rt imm) :=
  ⟨OpcodeRow.mk "ADDI" 0x20000000#32 0xFC000000#32, by decide, rfl,
    (encodeI_and 0b001000#6 63 rs 0 rt 0 imm 0).trans (by simp only [BitVec.ofNat_eq_ofNat, BitVec.and_zero]; rfl)⟩

theorem addiu (rs rt : Reg) (imm : BitVec 16) : Statement (.addiu rs rt imm) :=
  ⟨OpcodeRow.mk "ADDIU" 0x24000000#32 0xFC000000#32, by decide, rfl,
    (encodeI_and 0b001001#6 63 rs 0 rt 0 imm 0).trans (by simp only [BitVec.ofNat_eq_ofNat, BitVec.and_zero]; rfl)⟩

theorem andi (rs rt : Reg) (imm : BitVec 16) : Statement (.andi rs rt imm) :=
  ⟨OpcodeRow.mk "ANDI" 0x30000000#32 0xFC000000#32, by decide, rfl,
    (encodeI_and 0b001100#6 63 rs 0 rt 0 imm 0).trans (by simp only [BitVec.ofNat_eq_ofNat, BitVec.and_zero]; rfl)⟩

theorem ori (rs rt : Reg) (imm : BitVec 16) : Statement (.ori rs rt imm) :=
  ⟨OpcodeRow.mk "ORI" 0x34000000#32 0xFC000000#32, by decide, rfl,
    (encodeI_and 0b001101#6 63 rs 0 rt 0 imm 0).trans (by simp only [BitVec.ofNat_eq_ofNat, BitVec.and_zero]; rfl)⟩

theorem xori (rs rt : Reg) (imm : BitVec 16) : Statement (.xori rs rt imm) :=
  ⟨OpcodeRow.mk "XORI" 0x38000000#32 0xFC000000#32, by decide, rfl,
    (encodeI_and 0b001110#6 63 rs 0 rt 0 imm 0).trans (by simp only [BitVec.ofNat_eq_ofNat, BitVec.and_zero]; rfl)⟩

theorem lui (rt : Reg) (imm : BitVec 16) : Statement (.lui rt imm) :=
  ⟨OpcodeRow.mk "LUI" 0x3C000000#32 0xFFE00000#32, by decide, rfl,
    (encodeI_and 0b001111#6 63 0 31 rt 0 imm 0).trans (by simp only [BitVec.ofNat_eq_ofNat, BitVec.and_zero]; rfl)⟩

theorem slti (rs rt : Reg) (imm : BitVec 16) : Statement (.slti rs rt imm) :=
  ⟨OpcodeRow.mk "SLTI" 0x28000000#32 0xFC000000#32, by decide, rfl,
    (encodeI_and 0b001010#6 63 rs 0 rt 0 imm 0).trans (by simp only [BitVec.ofNat_eq_ofNat, BitVec.and_zero]; rfl)⟩

theorem sltiu (rs rt : Reg) (imm : BitVec 16) : Statement (.sltiu rs rt imm) :=
  ⟨OpcodeRow.mk "SLTIU" 0x2C000000#32 0xFC000000#32, by decide, rfl,
    (encodeI_and 0b001011#6 63 rs 0 rt 0 imm 0).trans (by simp only [BitVec.ofNat_eq_ofNat, BitVec.and_zero]; rfl)⟩

theorem beq (rs rt : Reg) (offset : BitVec 16) : Statement (.beq rs rt offset) :=
  ⟨OpcodeRow.mk "BEQ" 0x10000000#32 0xFC000000#32, by decide, rfl,
    (encodeI_and 0b000100#6 63 rs 0 rt 0 offset 0).trans (by simp only [BitVec.ofNat_eq_ofNat, BitVec.and_zero]; rfl)⟩

theorem bne (rs rt : Reg) (offset : BitVec 16) : Statement (.bne rs rt offset) :=
  ⟨OpcodeRow.mk "BNE" 0x14000000#32 0xFC000000#32, by decide, rfl,
    (encodeI_and 0b000101#6 63 rs 0 rt 0 offset 0).trans (by simp only [BitVec.ofNat_eq_ofNat, BitVec.and_zero]; rfl)⟩

theorem blez (rs : Reg) (offset : BitVec 16) : Statement (.blez rs offset) :=
  ⟨OpcodeRow.mk "BLEZ" 0x18000000#32 0xFC1F0000#32, by decide, rfl,
    (encodeI_and 0b000110#6 63 rs 0 0 31 offset 0).trans (by simp only [BitVec.ofNat_eq_ofNat, BitVec.and_zero]; rfl)⟩

theorem bgtz (rs : Reg) (offset : BitVec 16) : Statement (.bgtz rs offset) :=
  ⟨OpcodeRow.mk "BGTZ" 0x1C000000#32 0xFC1F0000#32, by decide, rfl,
    (encodeI_and 0b000111#6 63 rs 0 0 31 offset 0).trans (by simp only [BitVec.ofNat_eq_ofNat, BitVec.and_zero]; rfl)⟩

theorem bltz (rs : Reg) (offset : BitVec 16) : Statement (.bltz rs offset) :=
  ⟨OpcodeRow.mk "BLTZ" 0x04000000#32 0xFC1F0000#32, by decide, rfl,
    (encodeI_and 0b000001#6 63 rs 0 0b00000#5 31 offset 0).trans (by simp only [BitVec.ofNat_eq_ofNat, BitVec.and_zero]; rfl)⟩

theorem bgez (rs : Reg) (offset : BitVec 16) : Statement (.bgez rs offset) :=
  ⟨OpcodeRow.mk "BGEZ" 0x04010000#32 0xFC1F0000#32, by decide, rfl,
    (encodeI_and 0b000001#6 63 rs 0 0b00001#5 31 offset 0).trans (by simp only [BitVec.ofNat_eq_ofNat, BitVec.and_zero]; rfl)⟩

theorem j (index : BitVec 26) : Statement (.j index) :=
  ⟨OpcodeRow.mk "J" 0x08000000#32 0xFC000000#32, by decide, rfl,
    (encodeJ_and 0b000010#6 63 index 0).trans (by simp only [BitVec.ofNat_eq_ofNat, BitVec.and_zero]; rfl)⟩

theorem jal (index : BitVec 26) : Statement (.jal index) :=
  ⟨OpcodeRow.mk "JAL" 0x0C000000#32 0xFC000000#32, by decide, rfl,
    (encodeJ_and 0b000011#6 63 index 0).trans (by simp only [BitVec.ofNat_eq_ofNat, BitVec.and_zero]; rfl)⟩

theorem jalr (rs rd : Reg) : Statement (.jalr rs rd) :=
  ⟨OpcodeRow.mk "JALR" 0x00000009#32 0xFC1F07FF#32, by decide, rfl,
    (wordOfFields_and 0 63 rs 0 0 31 rd 0 0 31 0b001001#6 63).trans (by simp only [BitVec.ofNat_eq_ofNat, BitVec.and_zero]; rfl)⟩

theorem jr (rs : Reg) : Statement (.jr rs) :=
  ⟨OpcodeRow.mk "JR" 0x00000008#32 0xFC1FFFFF#32, by decide, rfl,
    (wordOfFields_and 0 63 rs 0 0 31 0 31 0 31 0b001000#6 63).trans (by simp only [BitVec.ofNat_eq_ofNat, BitVec.and_zero]; rfl)⟩

theorem mfhi (rd : Reg) : Statement (.mfhi rd) :=
  ⟨OpcodeRow.mk "MFHI" 0x00000010#32 0xFFFF07FF#32, by decide, rfl,
    (wordOfFields_and 0 63 0 31 0 31 rd 0 0 31 0b010000#6 63).trans (by simp only [BitVec.ofNat_eq_ofNat, BitVec.and_zero]; rfl)⟩

theorem mflo (rd : Reg) : Statement (.mflo rd) :=
  ⟨OpcodeRow.mk "MFLO" 0x00000012#32 0xFFFF07FF#32, by decide, rfl,
    (wordOfFields_and 0 63 0 31 0 31 rd 0 0 31 0b010010#6 63).trans (by simp only [BitVec.ofNat_eq_ofNat, BitVec.and_zero]; rfl)⟩

theorem mthi (rs : Reg) : Statement (.mthi rs) :=
  ⟨OpcodeRow.mk "MTHI" 0x00000011#32 0xFC1FFFFF#32, by decide, rfl,
    (wordOfFields_and 0 63 rs 0 0 31 0 31 0 31 0b010001#6 63).trans (by simp only [BitVec.ofNat_eq_ofNat, BitVec.and_zero]; rfl)⟩

theorem mtlo (rs : Reg) : Statement (.mtlo rs) :=
  ⟨OpcodeRow.mk "MTLO" 0x00000013#32 0xFC1FFFFF#32, by decide, rfl,
    (wordOfFields_and 0 63 rs 0 0 31 0 31 0 31 0b010011#6 63).trans (by simp only [BitVec.ofNat_eq_ofNat, BitVec.and_zero]; rfl)⟩

theorem eret : Statement (.eret) :=
  ⟨OpcodeRow.mk "ERET" 0x42000018#32 0xFFFFFFFF#32, by decide, rfl,
    rfl⟩

theorem mfc0 (rt : Reg) (rd : Cp0Reg) : Statement (.mfc0 rt rd) :=
  ⟨OpcodeRow.mk "MFC0" 0x40000000#32 0xFFE007FF#32, by decide, rfl,
    (wordOfCop0Fields_and 0b010000 63 0b00000#5 31 rt 0 rd 0 0 2047).trans (by simp only [BitVec.ofNat_eq_ofNat, BitVec.and_zero]; rfl)⟩

theorem mtc0 (rt : Reg) (rd : Cp0Reg) : Statement (.mtc0 rt rd) :=
  ⟨OpcodeRow.mk "MTC0" 0x40800000#32 0xFFE007FF#32, by decide, rfl,
    (wordOfCop0Fields_and 0b010000 63 0b00100#5 31 rt 0 rd 0 0 2047).trans (by simp only [BitVec.ofNat_eq_ofNat, BitVec.and_zero]; rfl)⟩

theorem brk (code : BitVec 20) : Statement (.brk code) :=
  ⟨OpcodeRow.mk "BREAK" 0x0000000D#32 0xFC00003F#32, by decide, rfl,
    (wordOfTrapFields_and 0 63 code 0 0b001101#6 63).trans (by simp only [BitVec.ofNat_eq_ofNat, BitVec.and_zero]; rfl)⟩

theorem syscall (code : BitVec 20) : Statement (.syscall code) :=
  ⟨OpcodeRow.mk "SYSCALL" 0x0000000C#32 0xFC00003F#32, by decide, rfl,
    (wordOfTrapFields_and 0 63 code 0 0b001100#6 63).trans (by simp only [BitVec.ofNat_eq_ofNat, BitVec.and_zero]; rfl)⟩

end Sys2Proof.Laws.EncodedInRow
end

