-- ==== Sys2Proof/Laws/Platform.lean ====
section
/-! SUPPORT. What a platform's own definitions can be (00_scope.md R7): every function of finitely many sources is a
term's value, so that no DIV0 and no CP0_EFFECT is shut out; what a rule and an entry of CAUSE_MAP do; the IRQ oracle;
and which spans of text are fetchable. -/

namespace Sys2Proof.Machine

/-! ## Terms -/

/-- Every word, once. -/
def allWords : List Word := List.ofFn fun i : Fin (2 ^ 32) => BitVec.ofFin i

theorem mem_allWords (w : Word) : w ∈ allWords := List.mem_ofFn.mpr ⟨w.toFin, rfl⟩

/-- A choice among terms by the value of one source, over the words of a list. -/
theorem PlatformTerm.exists_choice {Source : Type} (name : Source) (t : Word → PlatformTerm Source) (ws : List Word) :
    ∃ u, ∀ value : Source → Word, value name ∈ ws → PlatformTerm.eval value u = PlatformTerm.eval value (t (value name)) := by
  induction ws with
  | nil => exact ⟨.const 0#32, fun _ h => absurd h List.not_mem_nil⟩
  | cons w rest ih =>
    obtain ⟨u, hu⟩ := ih
    refine ⟨.ifEqual (.source name) (.const w) (t w) u, fun value h => ?_⟩
    by_cases e : value name = w
    · simp [PlatformTerm.eval, e]
    · simpa [PlatformTerm.eval, e] using hu value ((List.mem_cons.mp h).resolve_left e)

/-- Every function of finitely many sources is the value of a term. -/
theorem PlatformTerm.exists_eval {Source : Type} [DecidableEq Source] (names : List Source)
    (f : (Source → Word) → Word) (hf : ∀ v v', (∀ n ∈ names, v n = v' n) → f v = f v') :
    ∃ t, ∀ value, PlatformTerm.eval value t = f value := by
  induction names generalizing f with
  | nil => exact ⟨.const (f fun _ => 0#32), fun value => hf _ _ fun _ h => absurd h List.not_mem_nil⟩
  | cons name rest ih =>
    have step : ∀ w, ∃ t, ∀ value, PlatformTerm.eval value t = f (Function.update value name w) := fun w => by
      refine ih (fun value => f (Function.update value name w)) fun v v' h => hf _ _ fun n hn => ?_
      by_cases e : n = name
      · subst e; simp
      · simpa [e] using h n ((List.mem_cons.mp hn).resolve_left e)
    choose t ht using step
    obtain ⟨u, hu⟩ := PlatformTerm.exists_choice name t allWords
    exact ⟨u, fun value => by rw [hu value (mem_allWords _), ht, Function.update_eq_self]⟩

/-- Every function of the operands and the drawn pair is a term of DIV0. -/
theorem Div0Source.exists_eval (f : Word → Word → Word × Word → Word) :
    ∃ t, ∀ rsValue rtValue drawn, PlatformTerm.eval (Div0Source.value rsValue rtValue drawn) t = f rsValue rtValue drawn := by
  obtain ⟨t, ht⟩ := PlatformTerm.exists_eval [Div0Source.rsValue, .rtValue, .drawnHi, .drawnLo]
    (fun v => f (v .rsValue) (v .rtValue) (v .drawnHi, v .drawnLo)) (fun v v' h => by simp [h])
  exact ⟨t, fun _ _ _ => ht _⟩

/-- Every function of the CP0 file before an event and of the drawn values is a term of CP0_EFFECT. -/
theorem Cp0Source.exists_eval (f : (Cp0Reg → Word) → (Cp0Reg → Word) → Word) :
    ∃ t, ∀ c ev index before drawn,
      PlatformTerm.eval (Config.cp0SourceValue c ev index before drawn) t = f (RegFile.read before) drawn := by
  have all : ∀ j : Cp0Reg, j ∈ List.ofFn fun i : Fin 32 => (BitVec.ofFin i : Cp0Reg) :=
    fun j => List.mem_ofFn.mpr ⟨j.toFin, rfl⟩
  obtain ⟨t, ht⟩ := PlatformTerm.exists_eval
    ((List.ofFn fun i : Fin 32 => Cp0Source.before (BitVec.ofFin i)) ++
      List.ofFn fun i : Fin 32 => Cp0Source.drawn (BitVec.ofFin i))
    (fun v => f (fun j => v (.before j)) (fun j => v (.drawn j))) (fun v v' h => by
      have hb : (fun j => v (.before j)) = fun j => v' (.before j) := funext fun j =>
        h _ (List.mem_append_left _ (List.mem_ofFn.mpr ⟨j.toFin, rfl⟩))
      have hd : (fun j => v (.drawn j)) = fun j => v' (.drawn j) := funext fun j =>
        h _ (List.mem_append_right _ (List.mem_ofFn.mpr ⟨j.toFin, rfl⟩))
      simp only [hb, hd])
  exact ⟨t, fun _ _ _ _ _ => ht _⟩

/-! ## CP0_EFFECT and CAUSE_MAP -/

/-- A register without a rule takes its free value, the default (10_state.md R30). -/
theorem Config.cp0After_of_no_rule {c : Config} {ev : Cp0Event} {index : Cp0Reg} (before : RegFile)
    (drawn : Cp0Reg → Word) (h : ∀ r ∈ c.cp0Rules, r.event = Cp0Event.name ev → r.index ≠ index) :
    Config.cp0After c ev index before drawn = drawn index := by
  have : (c.cp0Rules.find? fun r => r.event == Cp0Event.name ev && r.index == index) = none :=
    List.find?_eq_none.mpr fun r hr => by simpa using h r hr
  simp [Config.cp0After, this]

/-- The first rule for an event and a register gives the register's value. -/
theorem Config.cp0After_of_rule {c : Config} {ev : Cp0Event} {index : Cp0Reg} (before : RegFile)
    (drawn : Cp0Reg → Word) {first rest : List Cp0Rule} {r : Cp0Rule} (hc : c.cp0Rules = first ++ r :: rest)
    (hf : ∀ q ∈ first, q.event = Cp0Event.name ev → q.index ≠ index) (he : r.event = Cp0Event.name ev)
    (hi : r.index = index) :
    Config.cp0After c ev index before drawn =
      PlatformTerm.eval (Config.cp0SourceValue c ev index before drawn) r.value := by
  have hn : (first.find? fun r => r.event == Cp0Event.name ev && r.index == index) = none :=
    List.find?_eq_none.mpr fun q hq => by simpa using hf q hq
  have : (c.cp0Rules.find? fun r => r.event == Cp0Event.name ev && r.index == index) = some r := by
    rw [hc, List.find?_append, hn]
    simp [he, hi]
  simp [Config.cp0After, this]

/-! ## DIV0 -/

/-- All a division by zero does: HI and LO take the values of DIV0 and a draw is counted. -/
theorem divideByZero_eq (s : State) (a b : Word) (signed : Bool) :
    divideByZero s a b signed =
      .next (((s.countDraw.setHi (s.div0Values a b signed).1).setLo (s.div0Values a b signed).2).advancePc) := rfl

/-- Where the platform fixes nothing, the pair is the drawn one (92_eei_decisions.md D8). -/
theorem Config.div0Pair_draw {c : Config} (h : c.div0 = Div0.draw) (a b : Word) (signed : Bool) (drawn : Word × Word) :
    Config.div0Pair c a b signed drawn = drawn := by
  cases signed <;> simp [Config.div0Pair, h, Div0.draw, PlatformTerm.eval, Div0Source.value]

/-! ## The IRQ oracle -/

@[simp] theorem IrqOracle.withoutNow_delivers (o : IrqOracle) : IrqOracle.delivers (IrqOracle.withoutNow o) = false := by
  cases o <;> rfl

@[simp] theorem IrqOracle.withoutNow_rest (o : IrqOracle) :
    IrqOracle.rest (IrqOracle.withoutNow o) = IrqOracle.rest o := by
  cases o <;> rfl

/-! ## TEXT and MEM_ADMITS -/

/-- The two readings of MEM_ADMITS for a word fetch agree. -/
theorem Region.admitsWordFetch_eq (r : Region) (a : Word) :
    r.admitsWordFetch a.toNat = Region.admitsAccess r a .word .fetch := rfl

/-- A span inside the 4 GB is fetchable when MEM_ADMITS admits the fetch of each of its words (U22). -/
theorem TextSpan.fetchable_iff {c : Config} {t : TextSpan} (h : t.base + 4 * t.words ≤ 4294967296) :
    t.fetchable c.admits = true ↔
      ∀ k, k < t.words → Config.admitsAccess c (BitVec.ofNat 32 (t.base + 4 * k)) .word .fetch = true := by
  simp only [TextSpan.fetchable, List.all_eq_true, List.mem_range]
  refine forall₂_congr fun k hk => ?_
  have e : (BitVec.ofNat 32 (t.base + 4 * k)).toNat = t.base + 4 * k := by
    rw [BitVec.toNat_ofNat]; omega
  simp only [Config.admitsAccess, ← Region.admitsWordFetch_eq, e]

end Sys2Proof.Machine
end

