-- ==== Sys2Proof/Laws/Step.lean ====
section
/-! SUPPORT. What one step can do, said once. -/

namespace Sys2Proof.Machine

/-- Where a fetch answers a word (20_memory.md R45, R49, R50). -/
theorem fetchWord_ok {s : State} {w : Word} (h : fetchWord s = .ok w) :
    AccessWidth.aligned .word s.pc = true ∧ Config.inText s.cfg s.pc = true ∧
      Config.admitsAccess s.cfg s.pc .word .fetch = true ∧ w = s.readWord s.pc := by
  unfold fetchWord at h
  split at h
  · rename_i ha
    split at h
    · rename_i hb
      have hb' := Bool.and_eq_true_iff.mp hb
      cases h
      exact ⟨ha, hb'.1, hb'.2, rfl⟩
    · cases h
  · cases h

/-- Where a fetched word is an instruction. -/
theorem fetchInstr_ok {s : State} {i : Instr} (h : fetchInstr s = .ok i) :
    ∃ w, fetchWord s = .ok w ∧ decode w = .ok i := by
  unfold fetchInstr at h
  split at h
  · cases h
  · rename_i w hw
    split at h
    · rename_i j hj
      cases h
      exact ⟨w, hw, hj⟩
    · cases h

/-- All a step that answers a next state can have done: taken an interrupt, or executed the instruction at pc. -/
theorem step_next_cases {s t : State} (h : step s = .next t) :
    s.cfg.wellFormed = true ∧ s.faultRecord = none ∧
      ((s.irqDelivers = true ∧ t = s.consumeIrq.takeInterrupt) ∨
        (s.irqDelivers = false ∧ ∃ i, fetchInstr s = .ok i ∧ exec i s.consumeIrq = .next t)) := by
  unfold step at h
  split at h
  · rename_i hc
    split at h
    · cases h
    · rename_i hf
      refine ⟨hc, hf, ?_⟩
      split at h
      · rename_i hi
        cases h
        exact .inl ⟨hi, rfl⟩
      · rename_i hi
        refine .inr ⟨by simpa using hi, ?_⟩
        split at h
        · rename_i i hfi
          exact ⟨i, hfi, h⟩
        · cases h
  · cases h

end Sys2Proof.Machine
end

