-- ==== Sys2Proof/Tests/Slice0.lean ====
section
/-! SUPPORT. Tests: the checks of WellFormed, words of spec/95_test_vectors.md through the decoder, one step of every
instruction with the values that file gives, and for each obligation with hypotheses a state that meets them. -/

namespace Sys2Proof.Tests

open Sys2Proof.Machine Sys2Proof.Claims

/-! ## Helpers -/

/-- The configuration of 95_test_vectors.md: data in 0x0000 to 0x2FFF, fetches above, no text but what a test loads. -/
def vectorConfig : Config :=
  { Config.default with
    admits :=
      [ { base := 0, size := 0x3000, kinds := [.load, .store], widths := [.byte, .half, .word] }
      , { base := 0x3000, size := 0xFFFFD000, kinds := [.fetch], widths := [.word] } ] }

/-- The memory of V-LD and V-ST: words 0xA1B2C3D4, 0x80223344, 0x7F00FF01 at 0x0FFC, 0x1000, 0x1004. -/
def vectorImage : Memory :=
  [ (0x0FFC, 0xD4#8), (0x0FFD, 0xC3#8), (0x0FFE, 0xB2#8), (0x0FFF, 0xA1#8)
  , (0x1000, 0x44#8), (0x1001, 0x33#8), (0x1002, 0x22#8), (0x1003, 0x80#8)
  , (0x1004, 0x01#8), (0x1005, 0xFF#8), (0x1006, 0x00#8), (0x1007, 0x7F#8) ]

/-- The vectors' state with some general registers set and the word `w` loaded at `pc`. -/
def start (pc : Word) (w : Word) (values : List (Reg × Word)) : State :=
  ((values.foldl (fun s v => s.setX v.1 v.2) (State.launch vectorConfig .never vectorImage)).setPc pc).loadNextWord w

/-- A reading of the next state. -/
def after {α : Type} (read : State → α) (o : Result) : Option α :=
  match o with
  | .next t => some (read t)
  | _ => none

/-- The fault, if the outcome is one. -/
def faultOf (o : Result) : Option Fault :=
  match o with
  | .fault f => some f
  | _ => none

/-- What an exception leaves: pc, EPC and the kind recorded. -/
def entryOf (s : State) : Word × Word × Option ExcKind := (s.pc, s.epc, s.lastException.map fun r => r.kind)

/-! ## WellFormed -/

theorem test_wellFormed_default : Config.default.wellFormed = true := by decide

theorem test_wellFormed_instr : (Instr.add 0 31 0).wellFormed = true := by decide

/-- Each check refuses a configuration that is ill-formed in that one point (U9, U22). -/
theorem test_resetPc_misaligned : Config.wellFormed { Config.default with resetPc := 0x3002#32 } = false := by decide

theorem test_excHandler_misaligned : Config.wellFormed { Config.default with excHandler := 0x4181#32 } =
    false := by decide

theorem test_text_misaligned :
    Config.wellFormed { Config.default with text := [{ base := 0x3002, words := 1 }] } = false := by decide

theorem test_text_past_the_top :
    Config.wellFormed { Config.default with text := [{ base := 0xFFFFFFFC, words := 2 }] } = false := by decide

theorem test_text_not_fetchable :
    Config.wellFormed { vectorConfig with text := [{ base := 0x2FFC, words := 1 }] } = false := by decide

theorem test_text_at_the_top :
    Config.wellFormed { Config.default with text := [{ base := 0xFFFFFFFC, words := 1 }] } = true := by decide

theorem test_badConfiguration_refused :
    (match step { State.reset with cfg := { Config.default with excHandler := 0x4181#32 } } with
      | .refused .badConfiguration => true
      | _ => false) = true := by decide

/-! ## Decoding: every constructor, the words of 95_test_vectors.md 1.1 -/

theorem test_decode_loads :
    decode 0x82030003#32 = .ok (.lb 16 3 3) ∧
    decode 0x92030003#32 = .ok (.lbu 16 3 3) ∧
    decode 0x86030003#32 = .ok (.lh 16 3 3) ∧
    decode 0x96030002#32 = .ok (.lhu 16 3 2) ∧
    decode 0x8E030008#32 = .ok (.lw 16 3 8) := by decide

theorem test_decode_stores :
    decode 0xA2030003#32 = .ok (.sb 16 3 3) ∧
    decode 0xA6030018#32 = .ok (.sh 16 3 24) ∧
    decode 0xAE030008#32 = .ok (.sw 16 3 8) := by decide

theorem test_decode_arithmetic :
    decode 0x02538820#32 = .ok (.add 18 19 17) ∧
    decode 0x02538821#32 = .ok (.addu 18 19 17) ∧
    decode 0x02538822#32 = .ok (.sub 18 19 17) ∧
    decode 0x02538823#32 = .ok (.subu 18 19 17) ∧
    decode 0x02320018#32 = .ok (.mult 17 18) ∧
    decode 0x02320019#32 = .ok (.multu 17 18) ∧
    decode 0x0232001A#32 = .ok (.div 17 18) ∧
    decode 0x0232001B#32 = .ok (.divu 17 18) ∧
    decode 0x0253882A#32 = .ok (.slt 18 19 17) ∧
    decode 0x0253882B#32 = .ok (.sltu 18 19 17) := by decide

theorem test_decode_shifts :
    decode 0x00128940#32 = .ok (.sll 18 17 5) ∧
    decode 0x00128942#32 = .ok (.srl 18 17 5) ∧
    decode 0x00128943#32 = .ok (.sra 18 17 5) ∧
    decode 0x02728804#32 = .ok (.sllv 19 18 17) ∧
    decode 0x02728806#32 = .ok (.srlv 19 18 17) ∧
    decode 0x02728807#32 = .ok (.srav 19 18 17) := by decide

theorem test_decode_logic :
    decode 0x02538824#32 = .ok (.and 18 19 17) ∧
    decode 0x02538825#32 = .ok (.or 18 19 17) ∧
    decode 0x02538826#32 = .ok (.xor 18 19 17) ∧
    decode 0x02538827#32 = .ok (.nor 18 19 17) := by decide

theorem test_decode_immediates :
    decode 0x2251FFFF#32 = .ok (.addi 18 17 0xFFFF) ∧
    decode 0x26513FFF#32 = .ok (.addiu 18 17 0x3FFF) ∧
    decode 0x325155AA#32 = .ok (.andi 18 17 0x55AA) ∧
    decode 0x365155AA#32 = .ok (.ori 18 17 0x55AA) ∧
    decode 0x3A5155AA#32 = .ok (.xori 18 17 0x55AA) ∧
    decode 0x3C1155AA#32 = .ok (.lui 17 0x55AA) ∧
    decode 0x2A5155AA#32 = .ok (.slti 18 17 0x55AA) ∧
    decode 0x2E51AABB#32 = .ok (.sltiu 18 17 0xAABB) := by decide

theorem test_decode_branches :
    decode 0x1232FFFE#32 = .ok (.beq 17 18 0xFFFE) ∧
    decode 0x16320008#32 = .ok (.bne 17 18 8) ∧
    decode 0x1A20FFFE#32 = .ok (.blez 17 0xFFFE) ∧
    decode 0x1E20FFFE#32 = .ok (.bgtz 17 0xFFFE) ∧
    decode 0x0620FFFE#32 = .ok (.bltz 17 0xFFFE) ∧
    decode 0x0621FFFE#32 = .ok (.bgez 17 0xFFFE) := by decide

theorem test_decode_jumps :
    decode 0x08000C10#32 = .ok (.j 0xC10) ∧
    decode 0x0C000C10#32 = .ok (.jal 0xC10) ∧
    decode 0x03E08809#32 = .ok (.jalr 31 17) ∧
    decode 0x03E00008#32 = .ok (.jr 31) := by decide

theorem test_decode_transfers :
    decode 0x00008810#32 = .ok (.mfhi 17) ∧
    decode 0x00008812#32 = .ok (.mflo 17) ∧
    decode 0x02200011#32 = .ok (.mthi 17) ∧
    decode 0x02200013#32 = .ok (.mtlo 17) := by decide

theorem test_decode_cop0 :
    decode 0x42000018#32 = .ok .eret ∧
    decode 0x40110800#32 = .ok (.mfc0 17 1) ∧
    decode 0x40910800#32 = .ok (.mtc0 17 1) := by decide

theorem test_decode_traps :
    decode 0x0001234D#32 = .ok (.brk 0x0048D) ∧
    decode 0x03FFFFCC#32 = .ok (.syscall 0xFFFFF) := by decide

/-- The words of V-DEC that are no instruction. -/
theorem test_decode_invalid :
    [0x00000001#32, 0x00000005#32, 0x0000000A#32, 0x0000000F#32, 0x02538860#32, 0x02538FE0#32, 0x00328940#32,
     0x0232081A#32, 0x02320058#32, 0x03E00808#32, 0x03E10008#32, 0x03E08849#32, 0x03F08809#32, 0x00118810#32,
     0x02208810#32, 0x02200811#32, 0x04020000#32, 0x04100000#32, 0x04110000#32, 0x1A210000#32, 0x1E3FFFFE#32,
     0x3C310000#32, 0x40110801#32, 0x40310800#32, 0x40510800#32, 0x42000019#32, 0x42000000#32, 0x43000018#32,
     0x44000000#32, 0x50000000#32, 0x70000002#32, 0x7C000000#32, 0x88000000#32, 0xA8000000#32, 0xBC000000#32,
     0xC0000000#32, 0xFFFFFFFF#32].all
      (fun w => match decode w with | .ok _ => false | .error _ => true) = true := by decide

theorem test_decode_zero_fields_named :
    decode 0x02538860#32 = .error (.mustBeZero "ADD") ∧ decode 0x42000019#32 = .error (.noSuchCop0 0b10000#5) ∧
    decode 0x04100000#32 = .error (.noSuchBranch 0b10000#5) := by decide

theorem test_decodeBytes_little_endian :
    decodeBytes [0x20#8, 0x88#8, 0x53#8, 0x02#8, 0xFF#8] = .ok (.add 18 19 17, [0xFF#8]) ∧
    decodeBytes [0x20#8, 0x88#8, 0x53#8] = .error .truncated := by decide

theorem test_encode : encode (.sw 16 3 8) = 0xAE030008#32 ∧ encode (.bgez 17 0xFFFE) = 0x0621FFFE#32 := by decide

theorem test_decodeTableWord :
    decodeTableWord 32 0x42000018 = some .eret ∧ decodeTableWord 32 0x70000002 = none := by decide

/-! ## One step of each instruction (95_test_vectors.md part 2) -/

theorem test_lb_sign :
    after (fun t => t.x 3) (step (start 0x3000#32 0x8203FFFF#32 [(16, 0x1000#32), (3, 0xDEADBEEF#32)])) =
      some 0xFFFFFFA1#32 := by decide

theorem test_lb_lane3 :
    after (fun t => t.x 3) (step (start 0x3000#32 0x82030003#32 [(16, 0x1000#32), (3, 0xDEADBEEF#32)])) =
      some 0xFFFFFF80#32 := by decide

theorem test_lbu_lane3 :
    after (fun t => t.x 3) (step (start 0x3000#32 0x92030003#32 [(16, 0x1000#32), (3, 0xDEADBEEF#32)])) =
      some 0x80#32 := by decide

theorem test_lbu_lane0 :
    after (fun t => t.x 3) (step (start 0x3000#32 0x9203FFFC#32 [(16, 0x1000#32), (3, 0xDEADBEEF#32)])) =
      some 0xD4#32 := by decide

theorem test_lh_upper :
    after (fun t => t.x 3) (step (start 0x3000#32 0x86030002#32 [(16, 0x1000#32), (3, 0xDEADBEEF#32)])) =
      some 0xFFFF8022#32 := by decide

theorem test_lh_misaligned :
    after entryOf (step (start 0x3000#32 0x86030003#32 [(16, 0x1000#32), (3, 0xDEADBEEF#32)])) =
      some (0x4180#32, 0x3000#32, some (.addressError 0x1003#32 .load)) := by decide

theorem test_lhu_upper :
    after (fun t => t.x 3) (step (start 0x3000#32 0x96030002#32 [(16, 0x1000#32), (3, 0xDEADBEEF#32)])) =
      some 0x8022#32 := by decide

theorem test_lhu_misaligned :
    after entryOf (step (start 0x3000#32 0x96030001#32 [(16, 0x1000#32), (3, 0xDEADBEEF#32)])) =
      some (0x4180#32, 0x3000#32, some (.addressError 0x1001#32 .load)) := by decide

theorem test_lw_odd_base :
    after (fun t => t.x 3) (step (start 0x3000#32 0x8E030001#32 [(16, 0x1003#32)])) = some 0x7F00FF01#32 := by decide

theorem test_lw_wraps :
    after (fun t => t.x 3) (step (start 0x3000#32 0x8E037FFC#32 [(16, 0xFFFF9004#32)])) = some 0x80223344#32 :=
      by decide

theorem test_sb_lane3 :
    after (fun t => t.readWord 0x1000#32)
      (step (start 0x3000#32 0xA2030003#32 [(16, 0x1000#32), (3, 0x123456AB#32)])) = some 0xAB223344#32 := by decide

theorem test_sb_into_text :
    faultOf (step (start 0x3000#32 0xA2030003#32 [(16, 0x3000#32), (3, 1#32)])) =
      some (.storeToText 0x3000#32 0x3003#32) := by decide

theorem test_sh_upper :
    after (fun t => t.readWord 0x1000#32)
      (step (start 0x3000#32 0xA6030002#32 [(16, 0x1000#32), (3, 0x1234BEEF#32)])) = some 0xBEEF3344#32 := by decide

theorem test_sh_misaligned :
    after entryOf (step (start 0x3000#32 0xA6030001#32 [(16, 0x1000#32)])) =
      some (0x4180#32, 0x3000#32, some (.addressError 0x1001#32 .store)) := by decide

theorem test_sw_bytes :
    after (fun t => (t.readByte 0x1000#32, t.readByte 0x1003#32))
      (step (start 0x3000#32 0xAE030000#32 [(16, 0x1000#32), (3, 0xCAFEBABE#32)])) =
      some (0xBE#8, 0xCA#8) := by decide

theorem test_sw_not_admitted :
    faultOf (step (start 0x3000#32 0xAE030000#32 [(16, 0x8000#32), (3, 1#32)])) =
      some (.memNotAdmitted .store 0x3000#32 0x8000#32) := by decide

theorem test_add_no_overflow :
    after (fun t => t.x 17) (step (start 0x3000#32 0x02538820#32 [(18, 0x7FFFFFFF#32), (19, 0x80000000#32)])) =
      some 0xFFFFFFFF#32 := by decide

theorem test_add_overflow :
    after entryOf (step (start 0x3000#32 0x02538820#32 [(18, 0x80000000#32), (19, 0xFFFFFFFF#32)])) =
      some (0x4180#32, 0x3000#32, some .integerOverflow) := by decide

theorem test_addu_wraps :
    after (fun t => t.x 17) (step (start 0x3000#32 0x02538821#32 [(18, 0xFFFFFFFF#32), (19, 1#32)])) =
      some 0#32 := by decide

theorem test_sub_no_overflow :
    after (fun t => t.x 17) (step (start 0x3000#32 0x02538822#32 [(18, 0xFFFFFFFF#32), (19, 0x7FFFFFFF#32)])) =
      some 0x80000000#32 := by decide

theorem test_sub_overflow :
    after entryOf (step (start 0x3000#32 0x02538822#32 [(18, 0#32), (19, 0x80000000#32)])) =
      some (0x4180#32, 0x3000#32, some .integerOverflow) := by decide

theorem test_subu_wraps :
    after (fun t => t.x 17) (step (start 0x3000#32 0x02538823#32 [(18, 0#32), (19, 0xFFFFFFFF#32)])) =
      some 1#32 := by decide

theorem test_mult_negative :
    after (fun t => (t.hi, t.lo)) (step (start 0x3000#32 0x02320018#32 [(17, 0xFFFFFFFE#32), (18, 3#32)])) =
      some (0xFFFFFFFF#32, 0xFFFFFFFA#32) := by decide

theorem test_mult_lowest :
    after (fun t => (t.hi, t.lo))
      (step (start 0x3000#32 0x02320018#32 [(17, 0x80000000#32), (18, 0x80000000#32)])) =
      some (0x40000000#32, 0#32) := by decide

theorem test_multu :
    after (fun t => (t.hi, t.lo)) (step (start 0x3000#32 0x02320019#32 [(17, 0xFFFFFFFE#32), (18, 3#32)])) =
      some (2#32, 0xFFFFFFFA#32) := by decide

theorem test_multu_highest :
    after (fun t => (t.hi, t.lo))
      (step (start 0x3000#32 0x02320019#32 [(17, 0xFFFFFFFF#32), (18, 0xFFFFFFFF#32)])) =
      some (0xFFFFFFFE#32, 1#32) := by decide

theorem test_div_truncates :
    after (fun t => (t.hi, t.lo)) (step (start 0x3000#32 0x0232001A#32 [(17, 0xFFFFFFF9#32), (18, 2#32)])) =
      some (0xFFFFFFFF#32, 0xFFFFFFFD#32) := by decide

theorem test_div_lowest_by_minus_one :
    after (fun t => (t.hi, t.lo))
      (step (start 0x3000#32 0x0232001A#32 [(17, 0x80000000#32), (18, 0xFFFFFFFF#32)])) =
      some (0#32, 0x80000000#32) := by decide

theorem test_divu :
    after (fun t => (t.hi, t.lo)) (step (start 0x3000#32 0x0232001B#32 [(17, 0xFFFFFFF9#32), (18, 2#32)])) =
      some (1#32, 0x7FFFFFFC#32) := by decide

theorem test_divu_by_zero_goes_on :
    after (fun t => (t.pc, t.lastException)) (step (start 0x3000#32 0x0232001B#32 [(17, 5#32)])) =
      some (0x3004#32, none) := by decide

theorem test_slt :
    after (fun t => t.x 17) (step (start 0x3000#32 0x0253882A#32 [(18, 0x80000000#32), (19, 0x7FFFFFFF#32)])) =
      some 1#32 := by decide

theorem test_slt_not :
    after (fun t => t.x 17) (step (start 0x3000#32 0x0253882A#32 [(18, 1#32), (19, 0xFFFFFFFF#32)])) =
      some 0#32 := by decide

theorem test_sltu :
    after (fun t => t.x 17) (step (start 0x3000#32 0x0253882B#32 [(18, 1#32), (19, 0xFFFFFFFF#32)])) =
      some 1#32 := by decide

theorem test_sltu_not :
    after (fun t => t.x 17) (step (start 0x3000#32 0x0253882B#32 [(18, 0x80000000#32), (19, 0x7FFFFFFF#32)])) =
      some 0#32 := by decide

theorem test_sll :
    after (fun t => t.x 17) (step (start 0x3000#32 0x00128940#32 [(18, 0x80000001#32)])) = some 0x20#32 := by decide

theorem test_srl :
    after (fun t => t.x 17) (step (start 0x3000#32 0x00128942#32 [(18, 0x80000001#32)])) =
      some 0x04000000#32 := by decide

theorem test_sra :
    after (fun t => t.x 17) (step (start 0x3000#32 0x00128943#32 [(18, 0x80000001#32)])) =
      some 0xFC000000#32 := by decide

theorem test_sllv_modulo_32 :
    after (fun t => t.x 17) (step (start 0x3000#32 0x02728804#32 [(18, 0x80000001#32), (19, 0x25#32)])) =
      some 0x20#32 := by decide

theorem test_srlv_modulo_32 :
    after (fun t => t.x 17) (step (start 0x3000#32 0x02728806#32 [(18, 0x80000001#32), (19, 0xFFFFFFFF#32)])) =
      some 1#32 := by decide

theorem test_srav_modulo_32 :
    after (fun t => t.x 17) (step (start 0x3000#32 0x02728807#32 [(18, 0x80000001#32), (19, 0x25#32)])) =
      some 0xFC000000#32 := by decide

theorem test_and :
    after (fun t => t.x 17) (step (start 0x3000#32 0x02538824#32 [(18, 0x0000FFFF#32), (19, 0x00FF00FF#32)])) =
      some 0xFF#32 := by decide

theorem test_or :
    after (fun t => t.x 17) (step (start 0x3000#32 0x02538825#32 [(18, 0x0000FFFF#32), (19, 0x00FF00FF#32)])) =
      some 0x00FFFFFF#32 := by decide

theorem test_xor :
    after (fun t => t.x 17) (step (start 0x3000#32 0x02538826#32 [(18, 0x0000FFFF#32), (19, 0x00FF00FF#32)])) =
      some 0x00FFFF00#32 := by decide

theorem test_nor :
    after (fun t => t.x 17) (step (start 0x3000#32 0x02538827#32 [(18, 0x0000FFFF#32), (19, 0x00FF00FF#32)])) =
      some 0xFF000000#32 := by decide

theorem test_addi_lowest :
    after (fun t => t.x 17) (step (start 0x3000#32 0x22518000#32 [(18, 0x80008000#32)])) =
      some 0x80000000#32 := by decide

theorem test_addi_overflow :
    after entryOf (step (start 0x3000#32 0x22518000#32 [(18, 0x80007FFF#32)])) =
      some (0x4180#32, 0x3000#32, some .integerOverflow) := by decide

theorem test_addiu_sign_extends :
    after (fun t => t.x 17) (step (start 0x3000#32 0x26518000#32 [(18, 0x00010000#32)])) = some 0x8000#32 := by decide

theorem test_andi_zero_extends :
    after (fun t => t.x 17) (step (start 0x3000#32 0x32518000#32 [(18, 0xFFFF8000#32)])) = some 0x8000#32 := by decide

theorem test_ori_zero_extends :
    after (fun t => t.x 17) (step (start 0x3000#32 0x36518000#32 [])) = some 0x8000#32 := by decide

theorem test_xori_zero_extends :
    after (fun t => t.x 17) (step (start 0x3000#32 0x3A51FFFF#32 [(18, 0x12345678#32)])) =
      some 0x1234A987#32 := by decide

theorem test_lui : after (fun t => t.x 17) (step (start 0x3000#32 0x3C118000#32 [])) = some 0x80000000#32 := by decide

theorem test_slti :
    after (fun t => t.x 17) (step (start 0x3000#32 0x2A51FFFF#32 [(18, 3#32)])) = some 0#32 := by decide

theorem test_sltiu_sign_extends :
    after (fun t => t.x 17) (step (start 0x3000#32 0x2E51AABB#32 [(18, 0xFFFF0000#32)])) = some 1#32 := by decide

theorem test_sltiu_not :
    after (fun t => t.x 17) (step (start 0x3000#32 0x2E51AABB#32 [(18, 0xFFFFFFFF#32)])) = some 0#32 := by decide

theorem test_beq_taken :
    after (fun t => t.pc) (step (start 0x0#32 0x1232FFFC#32 [(17, 1#32), (18, 1#32)])) = some 0xFFFFFFF4#32 :=
      by decide

theorem test_beq_not_taken :
    after (fun t => t.pc) (step (start 0x3008#32 0x1232FFFE#32 [(17, 7#32), (18, 8#32)])) = some 0x300C#32 :=
      by decide

theorem test_bne_taken :
    after (fun t => t.pc) (step (start 0x3000#32 0x16320008#32 [(17, 0x80000000#32)])) = some 0x3024#32 := by decide

theorem test_bne_not_taken :
    after (fun t => t.pc) (step (start 0x3000#32 0x16320008#32 [(17, 2#32), (18, 2#32)])) = some 0x3004#32 :=
      by decide

theorem test_blez_taken : after (fun t => t.pc) (step (start 0x3008#32 0x1A20FFFE#32 [])) = some 0x3004#32 :=
    by decide

theorem test_blez_not_taken :
    after (fun t => t.pc) (step (start 0x3008#32 0x1A20FFFE#32 [(17, 1#32)])) = some 0x300C#32 := by decide

theorem test_bgtz_taken :
    after (fun t => t.pc) (step (start 0x3008#32 0x1E20FFFE#32 [(17, 0x7FFFFFFF#32)])) = some 0x3004#32 := by decide

theorem test_bgtz_not_taken :
    after (fun t => t.pc) (step (start 0x3008#32 0x1E20FFFE#32 [])) = some 0x300C#32 := by decide

theorem test_bltz_taken :
    after (fun t => t.pc) (step (start 0x3008#32 0x0620FFFE#32 [(17, 0x80000000#32)])) = some 0x3004#32 := by decide

theorem test_bltz_not_taken :
    after (fun t => t.pc) (step (start 0x3008#32 0x0620FFFE#32 [])) = some 0x300C#32 := by decide

theorem test_bgez_taken : after (fun t => t.pc) (step (start 0x3008#32 0x0621FFFE#32 [])) = some 0x3004#32 :=
    by decide

theorem test_bgez_not_taken :
    after (fun t => t.pc) (step (start 0x3008#32 0x0621FFFE#32 [(17, 0xFFFFFFFF#32)])) = some 0x300C#32 := by decide

theorem test_j_region_of_pc :
    after (fun t => t.pc) (step (start 0x0FFFFFFC#32 0x08000C10#32 [])) = some 0x00003040#32 := by decide

theorem test_j_keeps_region :
    after (fun t => t.pc) (step (start 0x10003000#32 0x08000C10#32 [])) = some 0x10003040#32 := by decide

theorem test_jal_link_wraps :
    after (fun t => (t.pc, t.x 31)) (step (start 0xFFFFFFFC#32 0x0C000C10#32 [])) =
      some (0xF0003040#32, 0#32) := by decide

theorem test_jalr_same_register :
    after (fun t => (t.pc, t.x 17)) (step (start 0x3010#32 0x02208809#32 [(17, 0x4000#32)])) =
      some (0x4000#32, 0x3014#32) := by decide

theorem test_jalr_no_link :
    after (fun t => t.pc) (step (start 0x3010#32 0x02200009#32 [(17, 0x4000#32)])) = some 0x4000#32 := by decide

theorem test_jr_misaligned_completes :
    after (fun t => t.pc) (step (start 0x3020#32 0x02200008#32 [(17, 0x3002#32)])) = some 0x3002#32 := by decide

theorem test_mfhi :
    after (fun t => (t.x 17, t.hi, t.lo))
      (step ({ start 0x3000#32 0x00008810#32 [] with hi := 0xFFFFFFFF#32, lo := 1#32 })) =
      some (0xFFFFFFFF#32, 0xFFFFFFFF#32, 1#32) := by decide

theorem test_mflo :
    after (fun t => (t.x 17, t.hi, t.lo))
      (step ({ start 0x3000#32 0x00008812#32 [] with hi := 1#32, lo := 0xFFFFFFFA#32 })) =
      some (0xFFFFFFFA#32, 1#32, 0xFFFFFFFA#32) := by decide

theorem test_mthi :
    after (fun t => (t.hi, t.lo))
      (step ({ start 0x3000#32 0x02200011#32 [(17, 0x12345678#32)] with hi := 1#32, lo := 2#32 })) =
      some (0x12345678#32, 2#32) := by decide

theorem test_mtlo :
    after (fun t => (t.hi, t.lo))
      (step ({ start 0x3000#32 0x02200013#32 [(17, 0x12345678#32)] with hi := 1#32, lo := 2#32 })) =
      some (1#32, 0x12345678#32) := by decide

theorem test_mfc0_epc :
    after (fun t => t.x 26) (step ((start 0x4180#32 0x401A7000#32 []).setCp0Reg 14 0x3010#32)) =
      some 0x3010#32 := by decide

theorem test_mtc0_epc :
    after (fun t => t.epc) (step (start 0x4180#32 0x409A7000#32 [(26, 0x3013#32)])) = some 0x3013#32 := by decide

theorem test_mtc0_other :
    after (fun t => (t.cp0Reg 1, t.epc))
      (step ((start 0x4180#32 0x40910800#32 [(17, 1#32)]).setCp0Reg 14 0x3010#32)) =
      some (1#32, 0x3010#32) := by decide

theorem test_eret :
    after (fun t => (t.pc, t.epc)) (step ((start 0x4180#32 0x42000018#32 []).setCp0Reg 14 0x3012#32)) =
      some (0x3012#32, 0x3012#32) := by decide

theorem test_break :
    after entryOf (step (start 0x3008#32 0x0001234D#32 [])) = some (0x4180#32, 0x300C#32, some .breakpoint) :=
      by decide

theorem test_syscall :
    after entryOf (step (start 0x3008#32 0x0000000C#32 [])) = some (0x4180#32, 0x300C#32, some .systemCall) :=
      by decide

theorem test_syscall_wraps :
    after entryOf (step (start 0xFFFFFFFC#32 0x0000000C#32 [])) = some (0x4180#32, 0#32, some .systemCall) :=
      by decide

/-! ## The machine as a whole -/

/-- V-TR: a destination x[0] is discarded. -/
theorem test_zero_register_discards :
    after (fun t => (t.x 0, t.pc)) (step { start 0x3000#32 0x00000010#32 [] with hi := 5#32, lo := 6#32 }) =
      some (0#32, 0x3004#32) := by decide

/-- Alignment comes before TEXT and admission (V-LD, V-ST). -/
theorem test_alignment_first :
    after entryOf (step (start 0x3000#32 0xAE030002#32 [(16, 0x3000#32)])) =
      some (0x4180#32, 0x3000#32, some (.addressError 0x3002#32 .store)) ∧
    after entryOf (step (start 0x3000#32 0x8E030001#32 [(16, 0x8000#32)])) =
      some (0x4180#32, 0x3000#32, some (.addressError 0x8001#32 .load)) := by decide

/-- P9 (a): outside TEXT; D21: a misaligned pc; P9 (b): no instruction. -/
theorem test_fetch_faults :
    faultOf (step ((start 0x3000#32 0#32 []).setPc 0x3008#32)) = some (.memNotAdmitted .fetch 0x3008#32 0x3008#32) ∧
    faultOf (step ((start 0x3000#32 0#32 []).setPc 0x3002#32)) = some (.fetchMisaligned 0x3002#32) ∧
    faultOf (step (start 0x3004#32 0x70000002#32 [])) = some (.invalidInstruction 0x3004#32 0x70000002#32) :=
      by decide

/-- P7: the interrupt step. -/
theorem test_interrupt :
    after entryOf (step { start 0x3008#32 0x01284821#32 [] with irq := .answer true .never }) =
      some (0x4180#32, 0x3008#32, some .interrupt) := by decide

theorem test_reset :
    State.reset.pc = 0x3000#32 ∧ State.reset.x 31 = 0#32 ∧ State.reset.mem = [] ∧ State.reset.lastException = none ∧
    State.reset.faultRecord = none ∧ Memory.wf State.reset.mem := by decide

theorem test_withFetchWord_reset :
    after (fun t => (t.x 8, t.pc)) (step (State.reset.withFetchWord 32 0x2408000A)) =
      some (10#32, 0x3004#32) := by decide

/-- With nothing loaded, the step from reset finds no text. -/
theorem test_reset_step : faultOf (step State.reset) = some (.memNotAdmitted .fetch 0x3000#32 0x3000#32) := by decide

theorem test_fault_recorded :
    (advance State.reset).faultRecord = some (.memNotAdmitted .fetch 0x3000#32 0x3000#32) ∧
    (advance State.reset).pc = 0x3000#32 := by decide

theorem test_memory_order :
    Memory.write (Memory.write [(5, 1#8)] 3 2#8) 5 7#8 = [(3, 2#8), (5, 7#8)] := by decide

theorem test_run_end : (runTo 0x3000#32 1 State.reset).safe = true ∧ (runTo 0x3004#32 1 State.reset).safe =
    false := by decide

/-- An oracle without end: one interrupt in three steps, over and over. -/
theorem test_unending_oracle :
    [0, 1, 2, 3, 4, 5, 6].map (fun n => IrqOracle.delivers (IrqOracle.rest^[n] (.repeating [false, false, true]))) =
      [false, false, true, false, false, true, false] := by decide

/-- A platform that at ERET keeps CP0 register 12 but sets its bit 1, that stores CAUSE_MAP's code of a SYSCALL in
bits 6..2 of register 13, and whose DIV by zero gives HI = x[rs] and LO = all ones. -/
def definingConfig : Config :=
  { Config.default with
    cp0Rules :=
      [ { event := .eret, index := 12#5, value := .bitOr (.source (.before 12#5)) (.const 2#32) }
      , { event := .systemCall, index := 13#5, value := .shiftLeft (.source .code) 2#5 } ]
    causeMap := [{ event := .systemCall, code := 8#32 }]
    div0 := { Div0.draw with signedHi := .source .rsValue, signedLo := .complement (.const 0#32) } }

theorem test_cp0_rule :
    Config.cp0After definingConfig .eret 12#5 (Vector.replicate 32 0xF0#32) (fun _ => 0x12345678#32) = 0xF2#32 ∧
    Config.cp0After definingConfig .eret 13#5 (Vector.replicate 32 0xF0#32) (fun _ => 0x12345678#32) = 0x12345678#32 ∧
    Config.cp0After definingConfig (.entry .systemCall) 13#5 (Vector.replicate 32 0xF0#32) (fun _ => 0#32) = 0x20#32 :=
      by decide

theorem test_div0_fixed :
    after (fun t => (t.hi, t.lo)) (exec (.div 18 0)
      ((State.launch definingConfig .never []).setX 18 7#32)) = some (7#32, 0xFFFFFFFF#32) := by decide

/-- Two regions that admit the span between them (U22 asks no more than that each fetch is admitted). -/
theorem test_text_in_two_regions :
    Config.wellFormed { Config.default with
      admits :=
        [ { base := 0x3000, size := 4, kinds := [.fetch], widths := [.word] }
        , { base := 0x3004, size := 4, kinds := [.fetch], widths := [.word] } ]
      text := [{ base := 0x3000, words := 2 }] } = true := by decide

/-! ## Witnesses: for each obligation with hypotheses, a state and operands that meet them -/

/-- The vectors' state with a base address in x[16]. -/
def atBase (a : Word) : State := start 0x3000#32 0#32 [(16, a)]

/-- The vectors' state with operands in x[18] and x[19]. -/
def operands (a b : Word) : State := start 0x3000#32 0#32 [(18, a), (19, b)]

theorem witness_DecodeFollowsOpcodeTable :
    (∃ r ∈ opcodeTable, 0x02538820#32 &&& r.mask = r.pattern) ∧ MatchesNoRow 0x70000002#32 ∧
    ∃ i, decode 0x02538820#32 = .ok i := by
  refine ⟨by decide, by unfold MatchesNoRow; decide, ⟨.add 18 19 17, by decide⟩⟩

theorem witness_LoadByteTakesItsLane :
    Config.admitsAccess (atBase 0x1000#32).cfg (effectiveAddress (atBase 0x1000#32) 16 3) .byte .load = true ∧
    Config.admitsAccess (atBase 0x1000#32).cfg (effectiveAddress (atBase 0x1000#32) 16 0) .byte .load = true :=
      by decide

theorem witness_LoadHalfTakesItsLane :
    ((effectiveAddress (atBase 0x1000#32) 16 0).toNat % 2 = 0 ∧
      Config.admitsAccess (atBase 0x1000#32).cfg (effectiveAddress (atBase 0x1000#32) 16 0) .half .load = true) ∧
    (effectiveAddress (atBase 0x1000#32) 16 2).toNat % 2 = 0 ∧
      Config.admitsAccess (atBase 0x1000#32).cfg (effectiveAddress (atBase 0x1000#32) 16 2) .half .load =
      true := by decide

theorem witness_LoadWordTakesTheWord :
    (effectiveAddress (atBase 0x1000#32) 16 0x1FFC).toNat % 4 = 0 ∧
    Config.admitsAccess (atBase 0x1000#32).cfg (effectiveAddress (atBase 0x1000#32) 16 0x1FFC) .word .load =
      true := by decide

theorem witness_StoreByteWritesOneByte :
    Config.inText (atBase 0x1000#32).cfg (effectiveAddress (atBase 0x1000#32) 16 0x1FFF) = false ∧
    Config.admitsAccess (atBase 0x1000#32).cfg (effectiveAddress (atBase 0x1000#32) 16 0x1FFF) .byte .store =
      true := by decide

theorem witness_StoreHalfWritesTwoBytes :
    (effectiveAddress (atBase 0x1000#32) 16 0x1FFE).toNat % 2 = 0 ∧
    (∀ k, k < 2 → Config.inText (atBase 0x1000#32).cfg (effectiveAddress (atBase 0x1000#32) 16 0x1FFE +
      BitVec.ofNat 32 k) = false) ∧
    Config.admitsAccess (atBase 0x1000#32).cfg (effectiveAddress (atBase 0x1000#32) 16 0x1FFE) .half .store =
      true := by decide

theorem witness_StoreWordWritesFourBytes :
    (effectiveAddress (atBase 0x1000#32) 16 0x1FFC).toNat % 4 = 0 ∧
    (∀ k, k < 4 → Config.inText (atBase 0x1000#32).cfg (effectiveAddress (atBase 0x1000#32) 16 0x1FFC +
      BitVec.ofNat 32 k) = false) ∧
    Config.admitsAccess (atBase 0x1000#32).cfg (effectiveAddress (atBase 0x1000#32) 16 0x1FFC) .word .store =
      true := by decide

theorem witness_AddressErrorExactlyWhenMisaligned :
    Raises (.lw 16 3 2) (atBase 0x1000#32) (.addressError 0x1002#32 .load) ∧
    Raises (.sh 16 3 1) (atBase 0x1000#32) (.addressError 0x1001#32 .store) := ⟨⟨_, rfl, by decide⟩, ⟨_, rfl, by decide⟩⟩

theorem witness_MisalignedAccessMovesNothing :
    (effectiveAddress (atBase 0x1000#32) 16 1).toNat % 2 ≠ 0 ∧
      (effectiveAddress (atBase 0x1000#32) 16 2).toNat % 4 ≠ 0 ∧
    (effectiveAddress (atBase 0x1000#32) 16 3).toNat % 4 ≠ 0 := by decide

theorem witness_StoredWordReadsBackAtEveryWidth :
    (effectiveAddress (atBase 0x1000#32) 16 0).toNat % 4 = 0 ∧ ∃ t, exec (.sw 16 3 0) (atBase 0x1000#32) =
      .next t := ⟨by decide, _, rfl⟩

theorem witness_AddWritesTheSumOrOverflows :
    FitsSigned (((operands 0x7FFFFFFF#32 0#32).x 18).toInt + ((operands 0x7FFFFFFF#32 0#32).x 19).toInt) ∧
    ¬ FitsSigned (((operands 0x7FFFFFFF#32 1#32).x 18).toInt + ((operands 0x7FFFFFFF#32 1#32).x 19).toInt) ∧
    FitsSigned (((operands 0x80000000#32 0#32).x 18).toInt + ((operands 0x80000000#32 0#32).x 19).toInt) ∧
    ¬ FitsSigned (((operands 0x80000000#32 0xFFFFFFFF#32).x 18).toInt +
      ((operands 0x80000000#32 0xFFFFFFFF#32).x 19).toInt) := by unfold FitsSigned; decide

theorem witness_SubWritesTheDifferenceOrOverflows :
    FitsSigned (((operands 0x80000000#32 0#32).x 18).toInt - ((operands 0x80000000#32 0#32).x 19).toInt) ∧
    ¬ FitsSigned (((operands 0x80000000#32 1#32).x 18).toInt - ((operands 0x80000000#32 1#32).x 19).toInt) :=
      by unfold FitsSigned; decide

theorem witness_AddiWritesTheSumOrOverflows :
    FitsSigned (((operands 0x7FFFFFFF#32 0#32).x 18).toInt + (0x0000#16).toInt) ∧
    ¬ FitsSigned (((operands 0x7FFFFFFF#32 0#32).x 18).toInt + (0x0001#16).toInt) := by unfold FitsSigned; decide

theorem witness_IntegerOverflowExactlyFromThree :
    Raises (.add 18 19 17) (operands 0x7FFFFFFF#32 1#32) .integerOverflow ∧
      ∃ t, exec (.add 18 19 17) (operands 0x7FFFFFFF#32 1#32) = .next t := ⟨⟨_, rfl, by decide⟩, _, rfl⟩

theorem witness_SignedDivisionTruncates :
    (operands 0x80000000#32 0xFFFFFFFF#32).x 19 ≠ 0#32 ∧ ((operands 0x80000000#32 0xFFFFFFFF#32).x 18 =
      0x80000000#32 ∧ (operands 0x80000000#32 0xFFFFFFFF#32).x 19 = 0xFFFFFFFF#32) ∧
    (operands 0x80000000#32 1#32).x 19 ≠ 0#32 ∧ ¬ ((operands 0x80000000#32 1#32).x 18 = 0x80000000#32 ∧
      (operands 0x80000000#32 1#32).x 19 = 0xFFFFFFFF#32) := by decide

theorem witness_UnsignedDivisionRoundsDown :
    (operands 0x80000000#32 1#32).x 19 ≠ 0#32 := by decide

theorem witness_DivisionByZeroCompletes :
    (operands 0x80000000#32 0#32).x 19 = 0#32 ∧ Config.default.div0 = Div0.draw := by decide

theorem witness_EretReturnsToEpc :
    (26 : Reg) ≠ 0#5 ∧ (1 : Cp0Reg) ≠ State.reset.cfg.epcIndex := by decide

theorem witness_Cp0EffectFollowsThePlatform :
    (∀ r ∈ Config.default.cp0Rules, r.event = Cp0Event.name .eret → r.index ≠ 12#5) ∧
    (∃ first r rest, definingConfig.cp0Rules = first ++ r :: rest ∧
      (∀ q ∈ first, q.event = Cp0Event.name (.entry .systemCall) → q.index ≠ 13#5) ∧
      r.event = Cp0Event.name (.entry .systemCall) ∧ r.index = 13#5) ∧
    (∃ m, definingConfig.causeMap = [] ++ m :: [] ∧ m.event = Cp0Event.name (.entry .systemCall)) ∧
    ({ event := .breakpoint, index := 13#5, value := .source .code } : Cp0Rule).value = .source .code ∧
    (∃ effect : Cp0EventName → RegFile → (Cp0Reg → Word) → Prop, ∀ e before, ∃ after, effect e before after) ∧
    Config.default.cp0Rules = [] := by
  refine ⟨by decide, ⟨[_], _, [], rfl, by decide, by decide, by decide⟩, ⟨_, rfl, rfl⟩, rfl,
    ⟨fun _ before after => after = RegFile.read before, fun _ _ => ⟨_, rfl⟩⟩, rfl⟩

theorem witness_EveryKindSavesItsAddress :
    ∃ t r, exec (.syscall 0) (forgetException State.reset) = .next t ∧ t.lastException = some r := ⟨_, _, rfl, rfl⟩

/-- Each of the ten instructions that raise. -/
theorem witness_ReturnResumesOrRepeats :
    (Raises (.add 18 19 17) (operands 0x7FFFFFFF#32 1#32) .integerOverflow ∧
      Raises (.sub 18 19 17) (operands 0x80000000#32 1#32) .integerOverflow ∧
      Raises (.addi 18 17 1) (operands 0x7FFFFFFF#32 1#32) .integerOverflow) ∧
    (Raises (.lh 16 3 1) (atBase 0x1000#32) (.addressError 0x1001#32 .load) ∧
      Raises (.lhu 16 3 1) (atBase 0x1000#32) (.addressError 0x1001#32 .load) ∧
      Raises (.lw 16 3 2) (atBase 0x1000#32) (.addressError 0x1002#32 .load) ∧
      Raises (.sh 16 3 1) (atBase 0x1000#32) (.addressError 0x1001#32 .store) ∧
      Raises (.sw 16 3 2) (atBase 0x1000#32) (.addressError 0x1002#32 .store)) ∧
    Raises (.brk 1) State.reset .breakpoint ∧ Raises (.syscall 1) State.reset .systemCall := by
  refine ⟨⟨?_, ?_, ?_⟩, ⟨?_, ?_, ?_, ?_, ?_⟩, ?_, ?_⟩ <;> exact ⟨_, rfl, by decide⟩

theorem witness_EntryProcessesOtherCp0Registers :
    (12 : Cp0Reg) ≠ State.reset.cfg.epcIndex ∧ Raises (.syscall 1) State.reset .systemCall ∧
    ∃ s : State, s.cfg.wellFormed = true ∧ s.faultRecord = none ∧ s.irqDelivers = true :=
  ⟨by decide, ⟨_, rfl, by decide⟩, State.launch Config.default (.answer true .never) [], by decide, by decide, by decide⟩

theorem witness_InterruptIsTakenBeforeTheFetch :
    ∃ s : State, s.cfg.wellFormed = true ∧ s.faultRecord = none ∧ s.irqDelivers = true :=
  ⟨State.launch Config.default (.repeating [true, false]) [], by decide, by decide, by decide⟩

/-- The clauses of FaultsHaveTheirConditions: a misaligned pc, a pc outside TEXT, a pc in TEXT that is not admitted (in
a configuration the model runs there is no such pc, so the second alternative of that clause has the first's witness), a
word that is no instruction, the three faults of data accesses, and a fault to record. -/
theorem witness_FaultsHaveTheirConditions :
    (ReadyToFetch (State.reset.setPc 0x3002#32) ∧ (State.reset.setPc 0x3002#32).pc.toNat % 4 ≠ 0) ∧
    (ReadyToFetch State.reset ∧ State.reset.pc.toNat % 4 = 0 ∧ Config.inText State.reset.cfg State.reset.pc = false) ∧
    (ReadyToFetch (start 0x3000#32 0x70000002#32 []) ∧ Fetches (start 0x3000#32 0x70000002#32 []) ∧
      MatchesNoRow ((start 0x3000#32 0x70000002#32 []).readWord 0x3000#32)) ∧
    (operands 5#32 0#32).x 19 = 0#32 := by
  refine ⟨⟨?_, ?_⟩, ⟨?_, ?_⟩, ⟨?_, ?_, ?_⟩, ?_⟩ <;> (try unfold ReadyToFetch) <;> (try unfold Fetches) <;>
    (try unfold MatchesNoRow) <;> decide

theorem witness_FaultsHaveTheirConditions_data :
    exec (.lw 16 3 0) (atBase 0x8000#32) = .fault (.memNotAdmitted .load 0x3000#32 0x8000#32) ∧
    exec (.sw 16 3 0) (atBase 0x8000#32) = .fault (.memNotAdmitted .store 0x3000#32 0x8000#32) ∧
    exec (.sb 16 3 3) (atBase 0x3000#32) = .fault (.storeToText 0x3000#32 0x3003#32) ∧
    State.reset.faultRecord = none ∧ step State.reset = .fault (.memNotAdmitted .fetch 0x3000#32 0x3000#32) :=
  ⟨rfl, rfl, rfl, rfl, rfl⟩

theorem witness_RecordedFaultStays : ∃ f, (advance State.reset).faultRecord = some f := ⟨_, rfl⟩

/-- Both sides hold, once for each alternative, and both fail at reset. -/
theorem witness_IllFormedConfigurationRefused :
    ({ Config.default with resetPc := 0x3002#32 } : Config).resetPc.toNat % 4 ≠ 0 ∧
    ({ Config.default with excHandler := 0x4181#32 } : Config).excHandler.toNat % 4 ≠ 0 ∧
    (∃ t ∈ ({ Config.default with text := [{ base := 0x3002, words := 1 }] } : Config).text, t.base % 4 ≠ 0) ∧
    4294967296 < 0xFFFFFFFC + 4 * 2 ∧
    Config.admitsAccess vectorConfig (BitVec.ofNat 32 (0x2FFC + 4 * 0)) .word .fetch = false ∧
    step State.reset = .fault (.memNotAdmitted .fetch 0x3000#32 0x3000#32) :=
  ⟨by decide, by decide, by decide, by decide, by decide, rfl⟩

theorem witness_StepRunsTheDecodedInstruction :
    ReadyToFetch (start 0x3000#32 0x02538820#32 []) ∧ Fetches (start 0x3000#32 0x02538820#32 []) ∧
    (Instr.add 18 19 17).wellFormed = true ∧
    decodeBytes ([0x3000#32, 0x3001#32, 0x3002#32, 0x3003#32].map (start 0x3000#32 0x02538820#32 []).readByte) =
      .ok (.add 18 19 17, []) := by
  refine ⟨?_, ?_, ?_, ?_⟩ <;> (try unfold ReadyToFetch) <;> (try unfold Fetches) <;> decide

theorem witness_LoadedWordRunsNext : State.reset.cfg.wellFormed = true ∧ State.reset.pc.toNat % 4 = 0 := by decide

theorem witness_EveryStepKeepsTheInvariant :
    (start 0x3000#32 0x02538820#32 []).inv ∧ ∃ t, step (start 0x3000#32 0x02538820#32 []) = .next t := by
  refine ⟨⟨by decide, by decide, ?_, by decide, by decide⟩, _, rfl⟩
  intro a access p h
  cases h

theorem witness_ProgramTextNeverChanges : Config.inText (start 0x3000#32 0#32 []).cfg 0x3003#32 = true := by decide

theorem witness_OnlySixInstructionsChangeHiLo :
    (∃ t, exec (.mfhi 17) State.reset = .next t) ∧
    (Instr.mfhi 17).mnemonic ∉ ["MULT", "MULTU", "DIV", "DIVU", "MTHI", "MTLO"] := ⟨⟨_, rfl⟩, by decide⟩

theorem witness_OnlyStoresChangeMemory :
    (∃ t, exec (.mfhi 17) State.reset = .next t) ∧
      (Instr.mfhi 17).mnemonic ∉ ["SB", "SH", "SW"] := ⟨⟨_, rfl⟩, by decide⟩

theorem witness_OnlyMtc0EntryAndEretChangeCp0 :
    (∃ t, exec (.syscall 0) State.reset = .next t) ∧ (Instr.syscall 0).mnemonic ∉ ["MTC0", "ERET"] :=
  ⟨⟨_, rfl⟩, by decide⟩

theorem witness_OnlyRegisterJumpsMisalignPc :
    State.reset.pc.toNat % 4 = 0 ∧ State.reset.cfg.excHandler.toNat % 4 = 0 ∧
    (∃ t, exec (.jal 1) State.reset = .next t) ∧ (Instr.jal 1).mnemonic ∉ ["JR", "JALR", "ERET"] :=
  ⟨by decide, by decide, ⟨_, rfl⟩, by decide⟩

theorem witness_OtherCp0RegistersInfluenceNothing :
    RegFile.read (RegFile.write State.reset.cp0 12#5 7#32) State.reset.cfg.epcIndex = State.reset.epc ∧
    Instr.eret.mnemonic ≠ "MFC0" := by decide

theorem witness_RegisterZeroIsZero : (17 : Reg) ≠ 0#5 ∧ (18 : Reg) ≠ 17 := by decide

theorem witness_LaunchStateAsTheSpecSays : Memory.read vectorImage (0x1003#32).toNat = some 0x80#8 := by decide

end Sys2Proof.Tests
end

section
/-! SUPPORT. Rules about the configuration check, the fetch, the step and CP0_EFFECT that the statements of 00_scope.md
need and the layers above do not have. -/

namespace Sys2Proof.Machine

open Sys2Proof.Claims

/-! ## The configuration check (U9, U22) -/

theorem Config.wordAligned_iff (a : Nat) : Config.wordAligned a = true ↔ a % 4 = 0 := beq_iff_eq

theorem TextSpan.placed_iff (t : TextSpan) :
    t.placed = true ↔ t.base % 4 = 0 ∧ t.base + 4 * t.words ≤ 4294967296 := by
  simp [TextSpan.placed, Config.wordAligned_iff]

/-- What the check asks of one span of TEXT, with MEM_ADMITS in the form the fetch itself uses. -/
theorem TextSpan.placed_and_fetchable_iff (c : Config) (t : TextSpan) :
    (t.placed = true ∧ t.fetchable c.admits = true) ↔
      t.base % 4 = 0 ∧ t.base + 4 * t.words ≤ 4294967296 ∧
        ∀ k, k < t.words → Config.admitsAccess c (BitVec.ofNat 32 (t.base + 4 * k)) .word .fetch = true := by
  rw [TextSpan.placed_iff, and_assoc]
  exact and_congr_right fun _ => and_congr_right fun fits => TextSpan.fetchable_iff fits

theorem Config.wellFormed_iff (c : Config) :
    c.wellFormed = true ↔
      c.resetPc.toNat % 4 = 0 ∧ c.excHandler.toNat % 4 = 0 ∧
        ∀ t ∈ c.text, t.base % 4 = 0 ∧ t.base + 4 * t.words ≤ 4294967296 ∧
          ∀ k, k < t.words → Config.admitsAccess c (BitVec.ofNat 32 (t.base + 4 * k)) .word .fetch = true := by
  simp only [Config.wellFormed, Bool.and_eq_true, Config.wordAligned_iff, List.all_eq_true, and_assoc,
    ← TextSpan.placed_and_fetchable_iff, forall₂_and]

/-! ## The fetch (20_memory.md R45 to R50) -/

/-- A word access is aligned when its address is a multiple of 4 (20_memory.md R43). -/
theorem AccessWidth.aligned_word_iff (a : Word) : AccessWidth.aligned .word a = true ↔ a.toNat % 4 = 0 := by
  simp [AccessWidth.aligned, ← BitVec.toNat_inj]

theorem fetchWord_of_fetches {s : State} (h : Fetches s) : fetchWord s = .ok (s.readWord s.pc) := by
  obtain ⟨aligned, text, admitted⟩ := h
  simp [fetchWord, (AccessWidth.aligned_word_iff _).mpr aligned, text, admitted]

theorem fetchInstr_of_decode {s : State} {w : Word} {i : Instr} (hw : fetchWord s = .ok w) (hi : decode w = .ok i) :
    fetchInstr s = .ok i := by
  simp [fetchInstr, hw, hi]

/-- Four bytes decode to an instruction and no rest when their word decodes to it (30_encoding.md R60). -/
theorem decodeBytes_four_iff (b0 b1 b2 b3 : Byte) (i : Instr) :
    decodeBytes [b0, b1, b2, b3] = .ok (i, []) ↔ decode (wordOfBytes b0 b1 b2 b3) = .ok i := by
  cases h : decode (wordOfBytes b0 b1 b2 b3) <;> simp [decodeBytes, h]

/-! ## The step (00_scope.md R14) -/

theorem step_of_illFormed {s : State} (h : s.cfg.wellFormed = false) : step s = .refused .badConfiguration := by
  simp [step, h]

/-- A state that is ready to fetch, and fetches an instruction, runs it with the oracle's answer taken. -/
theorem step_of_fetchInstr {s : State} {i : Instr} (h : ReadyToFetch s) (hi : fetchInstr s = .ok i) :
    step s = exec i s.consumeIrq := by
  obtain ⟨legal, noFault, noInterrupt⟩ := h
  simp [step, legal, noFault, noInterrupt, hi]

/-- No outcome that executing an instruction can have is a refusal. -/
theorem exec_ne_refused (i : Instr) (s : State) (r : Refusal) : exec i s ≠ .refused r := by
  intro h
  have effect := exec_effect i s
  rw [h] at effect
  cases effect

/-- Since no instruction is refused, a refusal is the configuration's. -/
theorem step_refused_iff (s : State) (r : Refusal) :
    step s = .refused r ↔ s.cfg.wellFormed = false ∧ r = .badConfiguration := by
  constructor
  · intro h
    unfold step at h
    split at h
    · split at h
      · cases h
      · split at h
        · cases h
        · split at h
          · exact absurd h (exec_ne_refused _ _ _)
          · cases h
    next illFormed =>
      cases h
      exact ⟨Bool.eq_false_iff.mpr illFormed, rfl⟩
  · rintro ⟨illFormed, rfl⟩
    exact step_of_illFormed illFormed

/-! ## CAUSE_MAP and CP0_EFFECT (00_scope.md R7) -/

/-- The first entry of CAUSE_MAP for an event gives its code. -/
theorem Config.causeCode_of_entry {c : Config} {ev : Cp0Event} (drawn : Word) {first rest : List CauseCode}
    {m : CauseCode} (hc : c.causeMap = first ++ m :: rest) (hf : ∀ q ∈ first, q.event ≠ Cp0Event.name ev)
    (he : m.event = Cp0Event.name ev) : Config.causeCode c ev drawn = m.code := by
  have found : (c.causeMap.find? fun q => q.event == Cp0Event.name ev) = some m := by
    have none_before : (first.find? fun q => q.event == Cp0Event.name ev) = none :=
      List.find?_eq_none.mpr fun q hq => by simpa using hf q hq
    rw [hc, List.find?_append, none_before]
    simp [he]
  simp [Config.causeCode, found]

/-- The names of all events. -/
def allEventNames : List Cp0EventName :=
  [.integerOverflow, .addressErrorLoad, .addressErrorStore, .breakpoint, .systemCall, .interrupt, .eret]

theorem mem_allEventNames (e : Cp0EventName) : e ∈ allEventNames := by
  cases e <;> simp [allEventNames]

/-- The numbers of all CP0 registers. -/
def allCp0Regs : List Cp0Reg := List.ofFn BitVec.ofFin

theorem mem_allCp0Regs (i : Cp0Reg) : i ∈ allCp0Regs := List.mem_ofFn.mpr ⟨i.toFin, rfl⟩

/-- A platform's rules where it defines every event and register: one rule for each. -/
def tabulateRules (value : Cp0EventName → Cp0Reg → PlatformTerm Cp0Source) : List Cp0Rule :=
  (allEventNames ×ˢ allCp0Regs).map fun p => { event := p.1, index := p.2, value := value p.1 p.2 }

/-- The rule that is found for an event and a register in the table is the table's own. -/
theorem find?_tabulateRules (value : Cp0EventName → Cp0Reg → PlatformTerm Cp0Source) (e : Cp0EventName) (i : Cp0Reg) :
    (tabulateRules value).find? (fun r => r.event == e && r.index == i) =
      some { event := e, index := i, value := value e i } := by
  have entry : (e, i) ∈ allEventNames ×ˢ allCp0Regs :=
    List.mem_product.mpr ⟨mem_allEventNames e, mem_allCp0Regs i⟩
  have isSome : ((tabulateRules value).find? fun r => r.event == e && r.index == i).isSome :=
    List.find?_isSome.mpr ⟨_, List.mem_map_of_mem entry, by simp⟩
  obtain ⟨r, found⟩ := Option.isSome_iff_exists.mp isSome
  obtain ⟨⟨e', i'⟩, -, rfl⟩ := List.mem_map.mp (List.mem_of_find?_eq_some found)
  obtain ⟨rfl, rfl⟩ : e' = e ∧ i' = i := by simpa using List.find?_some found
  exact found

theorem Config.cp0After_tabulateRules {c : Config} {value : Cp0EventName → Cp0Reg → PlatformTerm Cp0Source}
    (hc : c.cp0Rules = tabulateRules value) (ev : Cp0Event) (i : Cp0Reg) (before : RegFile) (drawn : Cp0Reg → Word) :
    Config.cp0After c ev i before drawn =
      PlatformTerm.eval (Config.cp0SourceValue c ev i before drawn) (value (Cp0Event.name ev) i) := by
  simp [Config.cp0After, hc, find?_tabulateRules]

/-- Every function of the event, the CP0 file before it and the draws is some platform's CP0_EFFECT. -/
theorem exists_rules_of_function (f : Cp0EventName → RegFile → (Cp0Reg → Word) → Cp0Reg → Word) :
    ∃ rules, ∀ (c : Config) ev before drawn i, c.cp0Rules = rules →
      Config.cp0After c ev i before drawn = f (Cp0Event.name ev) before drawn i := by
  have term : ∀ e i, ∃ t, ∀ c ev index before drawn,
      PlatformTerm.eval (Config.cp0SourceValue c ev index before drawn) t = f e before drawn i := fun e i => by
    obtain ⟨t, ht⟩ := Cp0Source.exists_eval fun before drawn =>
      f e (Vector.ofFn fun j => before (BitVec.ofFin j)) drawn i
    refine ⟨t, fun c ev index before drawn => ?_⟩
    have same : (Vector.ofFn fun j => RegFile.read before (BitVec.ofFin j)) = before :=
      Vector.ext fun j hj => by simp [RegFile.read, Vector.get_eq_getElem]
    rw [ht, same]
  choose value hvalue using term
  exact ⟨tabulateRules value, fun c ev before drawn i hc => by rw [Config.cp0After_tabulateRules hc, hvalue]⟩

open Classical in
/-- A function whose values over all draws are what the relation allows: the draw itself where it is allowed, else
some file that is. -/
noncomputable def allowedDraw (effect : Cp0EventName → RegFile → (Cp0Reg → Word) → Prop)
    (some_allowed : ∀ e before, ∃ after, effect e before after) (e : Cp0EventName) (before : RegFile)
    (drawn : Cp0Reg → Word) : Cp0Reg → Word :=
  if effect e before drawn then drawn else (some_allowed e before).choose

theorem exists_allowedDraw_eq_iff {effect : Cp0EventName → RegFile → (Cp0Reg → Word) → Prop}
    (some_allowed : ∀ e before, ∃ after, effect e before after) (e : Cp0EventName) (before : RegFile)
    (after : Cp0Reg → Word) :
    (∃ drawn, allowedDraw effect some_allowed e before drawn = after) ↔ effect e before after := by
  constructor
  · rintro ⟨drawn, rfl⟩
    unfold allowedDraw
    split
    · assumption
    · exact (some_allowed e before).choose_spec
  · exact fun allowed => ⟨after, if_pos allowed⟩

/-- Every relation that allows something is some platform's CP0_EFFECT, over all draws. -/
theorem exists_rules_of_relation (effect : Cp0EventName → RegFile → (Cp0Reg → Word) → Prop)
    (some_allowed : ∀ e before, ∃ after, effect e before after) :
    ∃ rules, ∀ (c : Config) ev before after, c.cp0Rules = rules →
      ((∃ drawn, ∀ i, Config.cp0After c ev i before drawn = after i) ↔ effect (Cp0Event.name ev) before after) := by
  obtain ⟨rules, hrules⟩ := exists_rules_of_function (allowedDraw effect some_allowed)
  refine ⟨rules, fun c ev before after hc => ?_⟩
  simp only [hrules c ev before _ _ hc, ← funext_iff, exists_allowedDraw_eq_iff]

end Sys2Proof.Machine
end

section
/-! The statements of 00_scope.md. -/

namespace Sys2Proof.Proofs

open Sys2Proof.Machine Sys2Proof.Claims

/-- Settles O57: a refusal is none of the effects an instruction can have. -/
theorem noInstructionIsRefused : Obligations.NoInstructionIsRefused := exec_ne_refused

/-- Settles O46: the bytes at pc are the word the fetch answers. -/
theorem stepRunsTheDecodedInstruction : Obligations.StepRunsTheDecodedInstruction := by
  intro s i ready fetches _ decoded
  have decoded_word : decode (s.readWord s.pc) = .ok i := (decodeBytes_four_iff _ _ _ _ _).mp decoded
  exact step_of_fetchInstr ready (fetchInstr_of_decode (fetchWord_of_fetches fetches) decoded_word)

/-- Settles O45: a step refuses exactly where the configuration check fails, and the alternatives are those in which one
of the check's conditions does. -/
theorem illFormedConfigurationRefused : Obligations.IllFormedConfigurationRefused := by
  intro s
  rw [step_refused_iff, and_iff_left rfl, ← Bool.not_eq_true, Config.wellFormed_iff]
  simp only [not_and_or, not_forall, not_le, Bool.not_eq_true, exists_prop, ne_eq]

/-- Settles O36: the draw or the first rule's term by Config.cp0After, and every relation by a table of rules whose terms
choose among what it allows. -/
theorem cp0EffectFollowsThePlatform : Obligations.Cp0EffectFollowsThePlatform := by
  refine ⟨fun c ev index before drawn => ⟨Config.cp0After_of_no_rule before drawn, ?_⟩, exists_rules_of_relation⟩
  intro first r rest hc hf he hi
  have by_rule := Config.cp0After_of_rule before drawn hc hf he hi
  refine ⟨by_rule, fun hcode firstCodes m restCodes hm hfm hem => ?_⟩
  rw [by_rule, hcode]
  exact Config.causeCode_of_entry (drawn index) hm hfm hem

end Sys2Proof.Proofs
end

section
/-! SUPPORT. What 10_state.md says of single registers, of the launch and of the records: rules about register 0, the
launch state, a recorded fault, and the invariant of Safety.lean under each operation. -/

namespace Sys2Proof.Machine

open Sys2Proof.Claims

/-! ## Registers and launch (10_state.md R22, R36) -/

theorem State.setX_zero (s : State) (v : Word) : s.setX 0#5 v = s := if_pos rfl

@[simp] theorem RegFile.read_replicate (v : Word) (i : BitVec 5) : RegFile.read (Vector.replicate 32 v) i = v := by
  simp [RegFile.read, Vector.get_eq_getElem]

/-- A byte that the platform loaded is in its place (70_reset_and_hazards.md R262). -/
theorem State.launch_readByte (cfg : Config) (irq : IrqOracle) {image : Memory} {a : Word} {b : Byte}
    (h : Memory.read image a.toNat = some b) : (State.launch cfg irq image).readByte a = b := by
  simp [State.launch, State.readByte, h]

/-! ## A recorded fault (10_state.md R35) -/

theorem State.recordFault_of_recorded {s : State} {f : Fault} (h : s.faultRecord = some f) (g : Fault) :
    s.recordFault g = s := by
  simp [State.recordFault, h]

/-- With a fault recorded a step answers no next state. -/
theorem step_ne_next_of_recorded {s : State} {f : Fault} (h : s.faultRecord = some f) (t : State) :
    step s ≠ .next t := by
  intro stepped
  obtain ⟨-, noFault, -⟩ := step_next_cases stepped
  rw [h] at noFault
  cases noFault

/-- With a fault recorded the machine does not move. -/
theorem advance_of_recorded {s : State} {f : Fault} (h : s.faultRecord = some f) : advance s = s := by
  unfold advance
  split
  next t stepped => exact absurd stepped (step_ne_next_of_recorded h t)
  next g _ => exact State.recordFault_of_recorded h g
  next => rfl

/-! ## The invariant, operation by operation -/

@[simp] theorem State.setPc_inv (s : State) (v : Word) : (s.setPc v).inv ↔ s.inv := Iff.rfl
@[simp] theorem State.advancePc_inv (s : State) : s.advancePc.inv ↔ s.inv := Iff.rfl
@[simp] theorem State.setHi_inv (s : State) (v : Word) : (s.setHi v).inv ↔ s.inv := Iff.rfl
@[simp] theorem State.setLo_inv (s : State) (v : Word) : (s.setLo v).inv ↔ s.inv := Iff.rfl
@[simp] theorem State.setCp0Reg_inv (s : State) (i : Cp0Reg) (v : Word) : (s.setCp0Reg i v).inv ↔ s.inv := Iff.rfl
@[simp] theorem State.withDraws_inv (s : State) (n : Nat) : ({ s with draws := n } : State).inv ↔ s.inv := Iff.rfl
@[simp] theorem State.consumeIrq_inv (s : State) : s.consumeIrq.inv ↔ s.inv := Iff.rfl
@[simp] theorem State.returnFromException_inv (s : State) : s.returnFromException.inv ↔ s.inv := Iff.rfl

@[simp] theorem State.setX_inv (s : State) (r : Reg) (v : Word) : (s.setX r v).inv ↔ s.inv := by
  simp [State.inv, State.setX_slotZero]

theorem State.writeBytes_inv {s : State} (h : s.inv) (a w : Word) (n : Nat) : (s.writeBytes a w n).inv := by
  obtain ⟨canonical, rest⟩ := h
  exact ⟨State.writeBytes_wf s a w n canonical, by simpa using rest⟩

/-- Entry keeps the invariant where an AddressError it records is of a misaligned address. -/
theorem State.enterException_inv {s : State} (h : s.inv) {k : ExcKind} (v : Word)
    (misaligned : ∀ a access, k = .addressError a access → a.toNat % 4 ≠ 0) : (s.enterException k v).inv := by
  obtain ⟨canonical, slotZero, -, rest⟩ := h
  refine ⟨by simpa using canonical, by simpa using slotZero, ?_, by simpa using rest⟩
  intro a access p recorded
  rw [State.enterException_lastException] at recorded
  cases recorded
  exact misaligned a access rfl

/-- An address that fails the alignment of some width is no multiple of 4 (20_memory.md R43). -/
theorem AccessWidth.mod_four_ne_zero_of_misaligned {n : AccessWidth} {a : Word}
    (h : AccessWidth.aligned n a = false) : a.toNat % 4 ≠ 0 := by
  cases n with
  | byte => cases h
  | half =>
    have odd : a.toNat % 2 ≠ 0 := by simpa [AccessWidth.aligned, ← BitVec.toNat_inj] using h
    omega
  | word => simpa [AccessWidth.aligned, ← BitVec.toNat_inj] using h

/-- The launch of a legal configuration with its image in canonical form meets the invariant. -/
theorem State.launch_inv {cfg : Config} {image : Memory} (irq : IrqOracle) (legal : cfg.wellFormed = true)
    (canonical : Memory.wf image) : (State.launch cfg irq image).inv :=
  ⟨canonical, RegFile.read_replicate _ _, fun _ _ _ recorded => (nomatch recorded), rfl, legal⟩

/-! ## What an instruction does to it, to HI and LO, and to CP0 -/

/-- What an instruction that answers a next state did. -/
theorem effect_of_exec {i : Instr} {s t : State} (h : exec i s = .next t) : Effect i s (.next t) :=
  h ▸ exec_effect i s

theorem exec_inv {i : Instr} {s t : State} (inv : s.inv) (h : exec i s = .next t) : t.inv := by
  cases effect_of_exec h with
  | stores n base rt offset => exact State.writeBytes_inv inv _ _ _
  | misaligned n base rt offset access misaligned =>
    refine State.enterException_inv inv _ fun a access' kind => ?_
    cases kind
    exact AccessWidth.mod_four_ne_zero_of_misaligned misaligned
  | breaks | calls | overflows => exact State.enterException_inv inv _ fun _ _ kind => (nomatch kind)
  | writes | writesHiLo | goes | links | returns | writesCp0 => simpa using inv

@[simp] theorem State.returnFromException_hi (s : State) : s.returnFromException.hi = s.hi := rfl
@[simp] theorem State.returnFromException_lo (s : State) : s.returnFromException.lo = s.lo := rfl

theorem State.enterException_keepsHiLo (s : State) (k : ExcKind) (v : Word) : KeepsHiLo s (s.enterException k v) :=
  ⟨State.enterException_hi s k v, State.enterException_lo s k v⟩

/-- HI and LO change only where an instruction writes them (10_state.md R26). -/
theorem exec_keepsHiLo {i : Instr} {s t : State} (h : exec i s = .next t)
    (hi : i.mnemonic ∉ ["MULT", "MULTU", "DIV", "DIVU", "MTHI", "MTLO"]) : KeepsHiLo s t := by
  cases effect_of_exec h with
  | writesHiLo _ _ _ isWriter => exact absurd isWriter hi
  | breaks | calls | overflows | misaligned => exact State.enterException_keepsHiLo _ _ _
  | writes | stores | goes | links | returns | writesCp0 => simp [KeepsHiLo]

/-- The CP0 registers change only in MTC0, ERET and an exception entry (10_state.md R28, R30). -/
theorem exec_keepsCp0_or_enters {i : Instr} {s t : State} (h : exec i s = .next t)
    (hi : i.mnemonic ∉ ["MTC0", "ERET"]) : KeepsCp0 s t ∨ ∃ k v, t = s.enterException k v := by
  cases effect_of_exec h with
  | returns isEret => subst isEret; simp [Instr.mnemonic] at hi
  | writesCp0 rt rd isMtc0 => subst isMtc0; simp [Instr.mnemonic] at hi
  | breaks | calls | overflows | misaligned => exact .inr ⟨_, _, rfl⟩
  | writes | writesHiLo | stores | goes | links => exact .inl fun j => State.cp0Reg_congr (by simp) j

end Sys2Proof.Machine
end

section
/-! SUPPORT. Two runs of one instruction, from states that may differ in the last-exception record and in the CP0
registers other than EPC: every operation keeps their agreement, so the instruction does. -/

namespace Sys2Proof.Machine

open Sys2Proof.Claims

/-- The states are the same but for the CP0 registers other than EPC (the same too where `cp0Too`) and the
last-exception record (the same too where `recordToo`). -/
structure Agree (cp0Too recordToo : Prop) (s t : State) : Prop where
  regs : t.regs = s.regs
  pc : t.pc = s.pc
  hi : t.hi = s.hi
  lo : t.lo = s.lo
  epc : t.epc = s.epc
  mem : t.mem = s.mem
  cfg : t.cfg = s.cfg
  irq : t.irq = s.irq
  draws : t.draws = s.draws
  faultRecord : t.faultRecord = s.faultRecord
  cp0 : cp0Too → t.cp0 = s.cp0
  lastException : recordToo → t.lastException = s.lastException

/-- The outcomes are next states that agree, or the same fault. -/
inductive OutcomesAgree (cp0Too recordToo : Prop) : Result → Result → Prop
  | next {s t : State} (h : Agree cp0Too recordToo s t) : OutcomesAgree cp0Too recordToo (.next s) (.next t)
  | fault (f : Fault) : OutcomesAgree cp0Too recordToo (.fault f) (.fault f)

namespace Agree

section
variable {cp0Too recordToo : Prop} {s t : State}

/-! ### What is read from them -/

theorem x (h : Agree cp0Too recordToo s t) : t.x = s.x := funext (State.x_congr h.regs)

theorem readByte (h : Agree cp0Too recordToo s t) : t.readByte = s.readByte := funext (State.readByte_congr h.mem)

theorem readHalf (h : Agree cp0Too recordToo s t) : t.readHalf = s.readHalf :=
  funext (State.readHalf_congr (congrFun h.readByte))

theorem readWord (h : Agree cp0Too recordToo s t) : t.readWord = s.readWord :=
  funext (State.readWord_congr (congrFun h.readByte))

theorem effectiveAddress (h : Agree cp0Too recordToo s t) : effectiveAddress t = effectiveAddress s := by
  funext base offset
  simp only [Machine.effectiveAddress, h.x]

theorem variableAmount (h : Agree cp0Too recordToo s t) : variableAmount t = variableAmount s := by
  funext rs
  simp only [Machine.variableAmount, h.x]

theorem branchTarget (h : Agree cp0Too recordToo s t) : branchTarget t = branchTarget s := by
  funext offset
  simp only [Machine.branchTarget, h.pc]

theorem jumpTarget (h : Agree cp0Too recordToo s t) : jumpTarget t = jumpTarget s := by
  funext index
  simp only [Machine.jumpTarget, h.pc]

theorem div0Values (h : Agree cp0Too recordToo s t) : t.div0Values = s.div0Values := by
  funext rsValue rtValue signed
  simp only [State.div0Values, h.cfg, h.draws]

/-! ### Every operation keeps the agreement -/

theorem setX (h : Agree cp0Too recordToo s t) (r : Reg) (v : Word) :
    Agree cp0Too recordToo (s.setX r v) (t.setX r v) := by
  unfold State.setX
  split
  · exact h
  · exact { h with regs := congrArg (RegFile.write · r v) h.regs }

theorem setPc (h : Agree cp0Too recordToo s t) (v : Word) : Agree cp0Too recordToo (s.setPc v) (t.setPc v) :=
  { h with pc := rfl }

theorem advancePc (h : Agree cp0Too recordToo s t) : Agree cp0Too recordToo s.advancePc t.advancePc :=
  { h with pc := congrArg (· + 4#32) h.pc }

theorem setHi (h : Agree cp0Too recordToo s t) (v : Word) : Agree cp0Too recordToo (s.setHi v) (t.setHi v) :=
  { h with hi := rfl }

theorem setLo (h : Agree cp0Too recordToo s t) (v : Word) : Agree cp0Too recordToo (s.setLo v) (t.setLo v) :=
  { h with lo := rfl }

theorem countDraw (h : Agree cp0Too recordToo s t) : Agree cp0Too recordToo s.countDraw t.countDraw :=
  { h with draws := congrArg (· + 1) h.draws }

theorem writeByte (h : Agree cp0Too recordToo s t) (a : Word) (b : Byte) :
    Agree cp0Too recordToo (s.writeByte a b) (t.writeByte a b) :=
  { h with mem := congrArg (Memory.write · a.toNat b) h.mem }

theorem writeBytes (h : Agree cp0Too recordToo s t) (a w : Word) (n : Nat) :
    Agree cp0Too recordToo (s.writeBytes a w n) (t.writeBytes a w n) := by
  induction n with
  | zero => exact h
  | succ n ih => exact ih.writeByte _ _

theorem setCp0 (h : Agree cp0Too recordToo s t) {f f' : RegFile}
    (sameEpc : RegFile.read f' s.cfg.epcIndex = RegFile.read f s.cfg.epcIndex) (same : cp0Too → f' = f) :
    Agree cp0Too recordToo (s.setCp0 f) (t.setCp0 f') :=
  { h with epc := by simpa [State.epc, h.cfg] using sameEpc, cp0 := same }

theorem read_epc (h : Agree cp0Too recordToo s t) :
    RegFile.read t.cp0 s.cfg.epcIndex = RegFile.read s.cp0 s.cfg.epcIndex := by
  have same := h.epc
  rwa [State.epc, h.cfg] at same

theorem setCp0Reg (h : Agree cp0Too recordToo s t) (i : Cp0Reg) (v : Word) :
    Agree cp0Too recordToo (s.setCp0Reg i v) (t.setCp0Reg i v) :=
  h.setCp0 (by rw [RegFile.read_write, RegFile.read_write, h.read_epc]) fun p => by rw [h.cp0 p]

theorem recordException (h : Agree cp0Too recordToo s t) (k : ExcKind) :
    Agree cp0Too recordToo (s.recordException k) (t.recordException k) :=
  { h with lastException := fun _ => by simp [h.pc] }

/-- The draws of the processing read the whole CP0 file, but what they give stays in it, outside EPC. -/
theorem cp0Processing (h : Agree cp0Too recordToo s t) (ev : Cp0Event) :
    Agree cp0Too recordToo (s.cp0Processing ev) (t.cp0Processing ev) := by
  refine (h.setCp0 ?_ fun p => ?_).countDraw
  · rw [h.cfg, Config.read_cp0FileAfter, Config.read_cp0FileAfter, if_pos rfl, if_pos rfl, h.read_epc]
  · have sameDraws : t.cp0Draws = s.cp0Draws := by
      funext ev index
      rw [State.cp0Draws, State.cp0Draws, h.cp0 p, h.draws]
    rw [h.cfg, h.cp0 p, sameDraws]

theorem enterException (h : Agree cp0Too recordToo s t) (k : ExcKind) {v v' : Word} (hv : v' = v) :
    Agree cp0Too recordToo (s.enterException k v) (t.enterException k v') := by
  unfold State.enterException
  rw [hv, h.cfg]
  exact (((h.recordException k).cp0Processing _).setCp0Reg _ _).setPc _

theorem returnFromException (h : Agree cp0Too recordToo s t) :
    Agree cp0Too recordToo s.returnFromException t.returnFromException := by
  unfold State.returnFromException
  rw [h.epc]
  exact (h.setPc _).cp0Processing _

/-! ### So does every way an instruction ends -/

theorem writeBack (h : Agree cp0Too recordToo s t) (r : Reg) {v v' : Word} (hv : v' = v) :
    OutcomesAgree cp0Too recordToo (writeBack s r v) (writeBack t r v') :=
  hv ▸ .next (h.setX r v').advancePc

theorem writeHiLo (h : Agree cp0Too recordToo s t) {hi hi' lo lo' : Word} (hhi : hi' = hi) (hlo : lo' = lo) :
    OutcomesAgree cp0Too recordToo (writeHiLo s hi lo) (writeHiLo t hi' lo') :=
  hhi ▸ hlo ▸ .next ((h.setHi hi').setLo lo').advancePc

theorem writeChecked (h : Agree cp0Too recordToo s t) (r : Reg) {temp temp' : BitVec 33} (htemp : temp' = temp) :
    OutcomesAgree cp0Too recordToo (writeChecked s r temp) (writeChecked t r temp') := by
  subst htemp
  unfold Machine.writeChecked
  split
  · exact .next (h.enterException _ h.pc)
  · exact h.writeBack r rfl

theorem divideByZero (h : Agree cp0Too recordToo s t) (rsValue rtValue : Word) (signed : Bool) :
    OutcomesAgree cp0Too recordToo (divideByZero s rsValue rtValue signed) (divideByZero t rsValue rtValue signed) :=
  h.countDraw.writeHiLo (by rw [h.div0Values]) (by rw [h.div0Values])

theorem branchIf (h : Agree cp0Too recordToo s t) (offset : BitVec 16) {taken taken' : Bool} (htaken : taken' = taken) :
    OutcomesAgree cp0Too recordToo (branchIf s taken (Machine.branchTarget s offset))
      (branchIf t taken' (Machine.branchTarget t offset)) := by
  subst htaken
  rw [h.branchTarget]
  cases taken' with
  | true => exact .next (h.setPc _)
  | false => exact .next h.advancePc

theorem loadInto (h : Agree cp0Too recordToo s t) (n : AccessWidth) (base rt : Reg) (offset : BitVec 16) {v v' : Word}
    (hv : v' = v) :
    OutcomesAgree cp0Too recordToo (loadInto s n (Machine.effectiveAddress s base offset) rt v)
      (loadInto t n (Machine.effectiveAddress t base offset) rt v') := by
  unfold Machine.loadInto
  rw [h.effectiveAddress, h.cfg, h.pc]
  split
  · split
    · exact h.writeBack rt hv
    · exact .fault _
  · exact .next (h.enterException _ h.pc)

theorem storeFrom (h : Agree cp0Too recordToo s t) (n : AccessWidth) (base rt : Reg) (offset : BitVec 16) :
    OutcomesAgree cp0Too recordToo (storeFrom s n (Machine.effectiveAddress s base offset) (s.x rt))
      (storeFrom t n (Machine.effectiveAddress t base offset) (t.x rt)) := by
  unfold Machine.storeFrom
  rw [h.effectiveAddress, h.cfg, h.pc, h.x]
  split
  · split
    · exact .fault _
    · split
      · exact .next (h.writeBytes _ _ _).advancePc
      · exact .fault _
  · exact .next (h.enterException _ h.pc)

end

end Agree

/-- From states that agree an instruction has outcomes that agree; MFC0, which reads any CP0 register, where these agree
too. -/
theorem exec_agree {cp0Too recordToo : Prop} {s t : State} (h : Agree cp0Too recordToo s t) (i : Instr)
    (readable : i.mnemonic = "MFC0" → cp0Too) : OutcomesAgree cp0Too recordToo (exec i s) (exec i t) := by
  cases i with
  | lb | lbu => exact h.loadInto .byte _ _ _ (by rw [h.effectiveAddress, h.readByte])
  | lh | lhu => exact h.loadInto .half _ _ _ (by rw [h.effectiveAddress, h.readHalf])
  | lw => exact h.loadInto .word _ _ _ (by rw [h.effectiveAddress, h.readWord])
  | sb => exact h.storeFrom .byte _ _ _
  | sh => exact h.storeFrom .half _ _ _
  | sw => exact h.storeFrom .word _ _ _
  | add | sub | addi => exact h.writeChecked _ (by rw [h.x])
  | mult | multu => exact h.writeHiLo (by rw [h.x]) (by rw [h.x])
  | div | divu =>
    simp only [exec, execDiv, execDivu, h.x]
    split
    · exact h.divideByZero _ _ _
    · exact h.writeHiLo rfl rfl
  | addu | subu | slt | sltu | sll | srl | sra | sllv | srlv | srav | and | or | xor | nor
  | addiu | andi | ori | xori | lui | slti | sltiu | mfhi | mflo =>
    refine h.writeBack _ ?_
    simp only [h.x, h.variableAmount, h.hi, h.lo]
  | beq | bne | blez | bgtz | bltz | bgez => exact h.branchIf _ (by rw [h.x])
  | j index => exact .next (by rw [h.jumpTarget]; exact h.setPc _)
  | jal index => exact .next (by rw [h.jumpTarget, h.pc]; exact (h.setX _ _).setPc _)
  | jalr rs rd => exact .next (by rw [h.x, h.pc]; exact (h.setX _ _).setPc _)
  | jr rs => exact .next (by rw [h.x]; exact h.setPc _)
  | mthi rs => exact .next (by rw [h.x]; exact (h.setHi _).advancePc)
  | mtlo rs => exact .next (by rw [h.x]; exact (h.setLo _).advancePc)
  | eret => exact .next h.returnFromException
  | mfc0 rt rd => exact h.writeBack _ (State.cp0Reg_congr (h.cp0 (readable rfl)) rd)
  | mtc0 rt rd => exact .next (by rw [h.x]; exact (h.setCp0Reg _ _).advancePc)
  | brk | syscall => exact .next (h.enterException _ (by rw [h.pc]))

/-! ## The two differences of 10_state.md R30 and R35 -/

theorem agree_withRecord (s : State) (record : Option ExcRecord) :
    Agree True False s { s with lastException := record } :=
  ⟨rfl, rfl, rfl, rfl, rfl, rfl, rfl, rfl, rfl, rfl, fun _ => rfl, nofun⟩

theorem agree_setCp0 {s : State} {file : RegFile} (h : RegFile.read file s.cfg.epcIndex = s.epc) :
    Agree False True s (s.setCp0 file) :=
  ⟨rfl, rfl, rfl, rfl, h, rfl, rfl, rfl, rfl, rfl, nofun, fun _ => rfl⟩

/-- States that agree are one state with two CP0 files and two records. -/
theorem Agree.eq {cp0Too recordToo : Prop} {s t : State} (h : Agree cp0Too recordToo s t) :
    t = { s with cp0 := t.cp0, lastException := t.lastException } := by
  obtain ⟨regs, pc, hi, lo, -, mem, cfg, irq, draws, faultRecord, -, -⟩ := h
  cases t
  simp only at *
  simp only [*]

theorem OutcomesAgree.withoutRecord_eq {recordToo : Prop} {o o' : Result} (h : OutcomesAgree True recordToo o o') :
    withoutRecord o' = withoutRecord o := by
  cases h with
  | next h => simp only [withoutRecord, forgetException]; rw [h.eq, h.cp0 trivial]
  | fault f => rfl

theorem OutcomesAgree.withoutCp0_eq {cp0Too : Prop} {o o' : Result} (h : OutcomesAgree cp0Too True o o') :
    withoutCp0 o' = withoutCp0 o := by
  cases h with
  | next h => simp only [withoutCp0, State.setCp0]; rw [h.eq, h.lastException trivial]
  | fault f => rfl

end Sys2Proof.Machine
end

section
/-! The statements of 10_state.md. -/

namespace Sys2Proof.Proofs

open Sys2Proof.Machine Sys2Proof.Claims

/-- Settles O48: a step is an interrupt's entry, which records no AddressError, or an instruction, each of whose effects
keeps the invariant. -/
theorem everyStepKeepsTheInvariant : Obligations.EveryStepKeepsTheInvariant := by
  intro s t inv stepped
  have consumed : s.consumeIrq.inv := (State.consumeIrq_inv s).mpr inv
  obtain ⟨-, -, ⟨-, rfl⟩ | ⟨-, i, -, executed⟩⟩ := step_next_cases stepped
  · exact State.enterException_inv consumed _ fun _ _ kind => (nomatch kind)
  · exact exec_inv consumed executed

/-- Settles O51, by the effects an instruction can have. -/
theorem onlySixInstructionsChangeHiLo : Obligations.OnlySixInstructionsChangeHiLo :=
  ⟨fun _ _ _ => exec_keepsHiLo, fun s => State.enterException_keepsHiLo s _ _⟩

/-- Settles O53, by the effects an instruction can have. -/
theorem onlyMtc0EntryAndEretChangeCp0 : Obligations.OnlyMtc0EntryAndEretChangeCp0 :=
  fun _ _ _ => exec_keepsCp0_or_enters

/-- Settles O55: two runs that differ in the record alone agree in all else. -/
theorem lastExceptionIsNeverRead : Obligations.LastExceptionIsNeverRead :=
  fun i s record => (exec_agree (agree_withRecord s record) i fun _ => trivial).withoutRecord_eq

/-- Settles O56: two runs that differ in CP0 registers other than EPC agree in all else. -/
theorem otherCp0RegistersInfluenceNothing : Obligations.OtherCp0RegistersInfluenceNothing :=
  fun i _ _ sameEpc notMfc0 => (exec_agree (agree_setCp0 sameEpc) i notMfc0).withoutCp0_eq

/-- Settles O44: a state with a fault recorded is a fixed point of `advance`. -/
theorem recordedFaultStays : Obligations.RecordedFaultStays := by
  intro s f n recorded
  rw [Function.iterate_fixed (advance_of_recorded recorded)]
  exact ⟨recorded, step_ne_next_of_recorded recorded⟩

/-- Settles O49: the default configuration is legal and the empty image is in canonical form. -/
theorem resetMeetsTheInvariant : Obligations.ResetMeetsTheInvariant :=
  State.launch_inv .never (by decide) (by simp [Memory.wf])

/-- Settles O58, by what a write does to every register's reading. -/
theorem registerZeroIsZero : Obligations.RegisterZeroIsZero := by
  refine ⟨State.x_zero, State.setX_zero, fun s rd v notZero => ⟨?_, fun r other => ?_⟩⟩
  · simp [State.setX_x, notZero]
  · rw [State.setX_x, if_neg other]
    split
    next isZero => rw [isZero, State.x_zero]
    next => rfl

/-- Settles O59: the fields of the launch are the given ones, and a listed byte is what its address reads as. -/
theorem launchStateAsTheSpecSays : Obligations.LaunchStateAsTheSpecSays :=
  ⟨fun cfg irq _ => ⟨rfl, State.x_zero _, rfl, rfl, fun _ _ => State.launch_readByte cfg irq⟩, rfl⟩

end Sys2Proof.Proofs
end

section
/-! SUPPORT. What 20_memory.md says of a misaligned access, of the bytes a store leaves, of the program text and of pc:
the accesses that require an alignment, and what every instruction and every step keep. -/

namespace Sys2Proof.Machine

open Sys2Proof.Claims

/-! ## The effective address (R43) -/

/-- The bit-vector sum is the sum of integers modulo 2^32. -/
theorem effectiveAddress_eq_ofInt (s : State) (base : Reg) (offset : BitVec 16) :
    effectiveAddress s base offset = BitVec.ofInt 32 (((s.x base).toNat : Int) + offset.toInt) := by
  rw [BitVec.ofInt_add, BitVec.ofInt_natCast, BitVec.ofNat_toNat, BitVec.setWidth_eq]
  rfl

theorem AccessWidth.misaligned_half_iff (a : Word) : AccessWidth.aligned .half a = false ↔ a.extractLsb' 0 1 ≠ 0#1 :=
  beq_eq_false_iff_ne

theorem AccessWidth.misaligned_word_iff (a : Word) : AccessWidth.aligned .word a = false ↔ a.extractLsb' 0 2 ≠ 0#2 :=
  beq_eq_false_iff_ne

theorem AccessWidth.misaligned_half_of_odd {a : Word} (odd : a.toNat % 2 ≠ 0) : AccessWidth.aligned .half a = false := by
  simpa [AccessWidth.aligned, ← BitVec.toNat_inj] using odd

theorem AccessWidth.misaligned_word_of_mod_four {a : Word} (h : a.toNat % 4 ≠ 0) :
    AccessWidth.aligned .word a = false :=
  Bool.eq_false_iff.mpr fun aligned => h ((AccessWidth.aligned_word_iff a).mp aligned)

/-! ## Misaligned accesses (R43, R44) -/

/-- The instructions whose data access requires an alignment (R43), each with the width and the kind of its access. -/
inductive RequiresAlignment (base rt : Reg) (offset : BitVec 16) : Instr → AccessWidth → DataAccess → Prop
  | lh : RequiresAlignment base rt offset (.lh base rt offset) .half .load
  | lhu : RequiresAlignment base rt offset (.lhu base rt offset) .half .load
  | lw : RequiresAlignment base rt offset (.lw base rt offset) .word .load
  | sh : RequiresAlignment base rt offset (.sh base rt offset) .half .store
  | sw : RequiresAlignment base rt offset (.sw base rt offset) .word .store

theorem loadInto_of_misaligned {s : State} {n : AccessWidth} {a : Word} (rt : Reg) (v : Word)
    (h : AccessWidth.aligned n a = false) : loadInto s n a rt v = .next (s.raiseAddressError a .load) := by
  simp [loadInto, h]

theorem storeFrom_of_misaligned {s : State} {n : AccessWidth} {a : Word} (v : Word)
    (h : AccessWidth.aligned n a = false) : storeFrom s n a v = .next (s.raiseAddressError a .store) := by
  simp [storeFrom, h]

/-- What exception entry does to the machine outside the CP0 registers other than EPC (60_exceptions.md R226, R227). -/
theorem State.enterException_entersHandler (s : State) (k : ExcKind) (v : Word) :
    EntersHandler s k v (.next (s.enterException k v)) := by
  refine ⟨_, rfl, ?_⟩
  simp [KeepsGprs, KeepsHiLo, KeepsMemory, KeepsPlatform]

section
variable {base rt : Reg} {offset : BitVec 16} {i : Instr} {n : AccessWidth} {access : DataAccess} {s : State}

/-- A misaligned access raises AddressError and does nothing else: the alignment is tested before all other conditions. -/
theorem exec_of_misaligned (hi : RequiresAlignment base rt offset i n access)
    (misaligned : AccessWidth.aligned n (effectiveAddress s base offset) = false) :
    exec i s = .next (s.raiseAddressError (effectiveAddress s base offset) access) := by
  cases hi with
  | lh | lhu | lw => exact loadInto_of_misaligned rt _ misaligned
  | sh | sw => exact storeFrom_of_misaligned _ misaligned

theorem exec_entersHandler_of_misaligned (hi : RequiresAlignment base rt offset i n access)
    (misaligned : AccessWidth.aligned n (effectiveAddress s base offset) = false) :
    EntersHandler s (.addressError (effectiveAddress s base offset) access) s.pc (exec i s) :=
  exec_of_misaligned hi misaligned ▸ State.enterException_entersHandler s _ _

end

/-- The only instructions that record an AddressError are those that require an alignment, at an address without it. -/
theorem raises_addressError_iff (i : Instr) (s : State) (a : Word) (access : DataAccess) :
    Raises i s (.addressError a access) ↔
      ∃ base rt offset n, RequiresAlignment base rt offset i n access ∧
        AccessWidth.aligned n (effectiveAddress s base offset) = false ∧ a = effectiveAddress s base offset := by
  constructor
  · rintro ⟨t, executed, recorded⟩
    cases effect_of_exec executed with
    | misaligned n base rt offset access' misaligned hi =>
      cases recorded
      refine ⟨base, rt, offset, n, ?_, misaligned, rfl⟩
      obtain ⟨rfl, ⟨rfl, rfl | rfl⟩ | ⟨rfl, rfl⟩⟩ | ⟨rfl, ⟨rfl, rfl⟩ | ⟨rfl, rfl⟩⟩ := hi <;> constructor
    | breaks | calls | overflows => cases recorded
    | writes | writesHiLo | stores | goes | links | returns | writesCp0 =>
      simp [forgetException, State.returnFromException] at recorded
  · rintro ⟨base, rt, offset, n, hi, misaligned, rfl⟩
    exact ⟨_, exec_of_misaligned (s := forgetException s) hi misaligned, State.enterException_lastException _ _ _⟩

/-! ## Reading back what was stored (R40, R42) -/

/-- Two neighbouring bytes of a word, the lower one first, are the halfword at the lower one's place. -/
theorem halfOfBytes_byteOfWord (w : Word) (k : Nat) :
    halfOfBytes (byteOfWord w k) (byteOfWord w (k + 1)) = w.extractLsb' (8 * k) 16 :=
  BitVec.extractLsb'_append_extractLsb'_eq_extractLsb' (by omega)

/-- The four bytes of a word, the lowest first, are the word. -/
theorem wordOfBytes_byteOfWord (w : Word) :
    wordOfBytes (byteOfWord w 0) (byteOfWord w 1) (byteOfWord w 2) (byteOfWord w 3) = w := by
  simp only [wordOfBytes, byteOfWord]
  rw [BitVec.extractLsb'_append_extractLsb'_eq_extractLsb' (by omega),
    BitVec.extractLsb'_append_extractLsb'_eq_extractLsb' (by omega),
    BitVec.extractLsb'_append_extractLsb'_eq_extractLsb' (by omega)]
  exact BitVec.extractLsb'_eq_self

/-- The state holds the word at the address, its lowest byte first. -/
def HoldsWord (t : State) (a w : Word) : Prop := ∀ k, k < 4 → t.readByte (a + BitVec.ofNat 32 k) = byteOfWord w k

theorem HoldsWord.readByte_first {t : State} {a w : Word} (h : HoldsWord t a w) : t.readByte a = byteOfWord w 0 := by
  simpa using h 0 (by omega)

theorem HoldsWord.readHalf {t : State} {a w : Word} (h : HoldsWord t a w) {k : Nat} (hk : k + 1 < 4) :
    t.readHalf (a + BitVec.ofNat 32 k) = w.extractLsb' (8 * k) 16 := by
  have nextByte : a + BitVec.ofNat 32 k + 1#32 = a + BitVec.ofNat 32 (k + 1) := by
    rw [BitVec.add_assoc, ← BitVec.ofNat_add]
  rw [State.readHalf, nextByte, h k (by omega), h (k + 1) hk, halfOfBytes_byteOfWord]

theorem HoldsWord.readWord {t : State} {a w : Word} (h : HoldsWord t a w) : t.readWord a = w := by
  rw [State.readWord, h.readByte_first, h 1 (by omega), h 2 (by omega), h 3 (by omega), wordOfBytes_byteOfWord]

/-- An aligned SW that goes on has stored its word. -/
theorem exec_sw_holdsWord {base rt : Reg} {offset : BitVec 16} {s t : State}
    (aligned : (effectiveAddress s base offset).toNat % 4 = 0) (executed : exec (.sw base rt offset) s = .next t) :
    HoldsWord t (effectiveAddress s base offset) (s.x rt) := by
  have stored : storeFrom s .word (effectiveAddress s base offset) (s.x rt) = .next t := executed
  rcases storeFrom_cases s .word (effectiveAddress s base offset) (s.x rt) with
    ⟨-, -, -, ends⟩ | ⟨-, -, ends⟩ | ⟨-, -, -, ends⟩ | ⟨misaligned, -⟩
  · cases ends.symm.trans stored
    exact fun k hk => State.writeBytes_readByte_inside s _ _ le_rfl hk
  · cases ends.symm.trans stored
  · cases ends.symm.trans stored
  · rw [(AccessWidth.aligned_word_iff _).mpr aligned] at misaligned
    cases misaligned

/-! ## The program text (R49) -/

/-- The platform's parameters are the same and every byte in TEXT reads as before. -/
def KeepsText (s t : State) : Prop :=
  t.cfg = s.cfg ∧ ∀ a, Config.inText s.cfg a = true → t.readByte a = s.readByte a

theorem KeepsText.refl (s : State) : KeepsText s s := ⟨rfl, fun _ _ => rfl⟩

theorem KeepsText.trans {s t u : State} (first : KeepsText s t) (second : KeepsText t u) : KeepsText s u := by
  obtain ⟨cfg, bytes⟩ := first
  obtain ⟨cfg', bytes'⟩ := second
  rw [cfg] at cfg' bytes'
  exact ⟨cfg', fun a inText => (bytes' a inText).trans (bytes a inText)⟩

/-- What leaves the parameters and the whole memory alone keeps the text. -/
theorem KeepsText.of_mem_eq {s t : State} (cfg : t.cfg = s.cfg) (mem : t.mem = s.mem) : KeepsText s t :=
  ⟨cfg, fun a _ => State.readByte_congr mem a⟩

/-- A store none of whose bytes lies in TEXT keeps the text. -/
theorem State.writeBytes_keepsText {s : State} {a : Word} {n : Nat} (w : Word)
    (outside : Config.touchesText s.cfg a n = false) : KeepsText s (s.writeBytes a w n) := by
  refine ⟨State.writeBytes_cfg s a w n, fun c inText => State.writeBytes_readByte_outside s a w c n ?_⟩
  rintro k hk rfl
  rw [Config.touchesText_false outside k hk] at inText
  cases inText

theorem State.enterException_keepsText (s : State) (k : ExcKind) (v : Word) : KeepsText s (s.enterException k v) :=
  .of_mem_eq (State.enterException_cfg s k v) (State.enterException_mem s k v)

/-- The one effect that changes memory is a store's, and it stores only where it does not touch TEXT. -/
theorem exec_keepsText {i : Instr} {s t : State} (h : exec i s = .next t) : KeepsText s t := by
  cases effect_of_exec h with
  | stores n base rt offset _ outside => exact State.writeBytes_keepsText (s.x rt) outside
  | breaks | calls | overflows | misaligned => exact State.enterException_keepsText s _ _
  | writes | writesHiLo | goes | links | returns | writesCp0 =>
    exact .of_mem_eq (by simp [State.returnFromException]) (by simp [State.returnFromException])

theorem step_keepsText {s t : State} (h : step s = .next t) : KeepsText s t := by
  obtain ⟨-, -, ⟨-, rfl⟩ | ⟨-, i, -, executed⟩⟩ := step_next_cases h
  · exact State.enterException_keepsText s.consumeIrq _ _
  · exact exec_keepsText (s := s.consumeIrq) executed

theorem State.recordFault_keepsText (s : State) (f : Fault) : KeepsText s (s.recordFault f) := by
  unfold State.recordFault
  split
  · exact .of_mem_eq rfl rfl
  · exact .refl s

theorem advance_keepsText (s : State) : KeepsText s (advance s) := by
  unfold advance
  split
  next stepped => exact step_keepsText stepped
  next => exact State.recordFault_keepsText s _
  next => exact .refl s

theorem advance_iterate_keepsText (n : Nat) (s : State) : KeepsText s (advance^[n] s) := by
  induction n with
  | zero => exact .refl s
  | succ n ih =>
    rw [Function.iterate_succ_apply']
    exact ih.trans (advance_keepsText _)

/-! ## Where pc stays a multiple of 4 (R45) -/

theorem add_four_aligned {a : Word} (h : a.toNat % 4 = 0) : (a + 4#32).toNat % 4 = 0 := by
  rw [BitVec.toNat_add, BitVec.toNat_ofNat]
  omega

/-- Control goes on to the next word, to the handler, or to a target that only a register or EPC gives freely. -/
theorem exec_pc_aligned {i : Instr} {s t : State} (pc : s.pc.toNat % 4 = 0) (handler : s.cfg.excHandler.toNat % 4 = 0)
    (h : exec i s = .next t) (hi : i.mnemonic ∉ ["JR", "JALR", "ERET"]) : t.pc.toNat % 4 = 0 := by
  have notJr : i.mnemonic ≠ "JR" := fun e => hi (by simp [e])
  have notJalr : i.mnemonic ≠ "JALR" := fun e => hi (by simp [e])
  cases effect_of_exec h with
  | writes | writesHiLo | stores | writesCp0 => simpa using add_four_aligned pc
  | goes target _ aligned => exact aligned notJr pc
  | links r target _ aligned => exact aligned notJalr
  | returns isEret => subst isEret; simp [Instr.mnemonic] at hi
  | breaks | calls | overflows | misaligned => exact handler

end Sys2Proof.Machine
end

section
/-! The statements of 20_memory.md. -/

namespace Sys2Proof.Proofs

open Sys2Proof.Machine Sys2Proof.Claims

/-- Settles O50, by induction on the steps: each keeps the parameters and the text. -/
theorem programTextNeverChanges : Obligations.ProgramTextNeverChanges := advance_iterate_keepsText

/-- Settles O11: the accesses that require an alignment, with the two widths' tests in the bits of R43. -/
theorem addressErrorExactlyWhenMisaligned : Obligations.AddressErrorExactlyWhenMisaligned := by
  refine ⟨effectiveAddress_eq_ofInt, fun i s a access => ?_⟩
  rw [raises_addressError_iff]
  simp only [← effectiveAddress_eq_ofInt, ← AccessWidth.misaligned_half_iff, ← AccessWidth.misaligned_word_iff]
  constructor
  · rintro ⟨base, rt, offset, n, hi, misaligned, rfl⟩
    refine ⟨base, rt, offset, rfl, ?_⟩
    cases hi with
    | lh => exact .inl ⟨rfl, .inl rfl, misaligned⟩
    | lhu => exact .inl ⟨rfl, .inr rfl, misaligned⟩
    | lw => exact .inr (.inl ⟨rfl, rfl, misaligned⟩)
    | sh => exact .inr (.inr (.inl ⟨rfl, rfl, misaligned⟩))
    | sw => exact .inr (.inr (.inr ⟨rfl, rfl, misaligned⟩))
  · rintro ⟨base, rt, offset, rfl, ⟨rfl, rfl | rfl, misaligned⟩ | ⟨rfl, rfl, misaligned⟩ | ⟨rfl, rfl, misaligned⟩ |
      ⟨rfl, rfl, misaligned⟩⟩
    · exact ⟨base, rt, offset, _, .lh, misaligned, rfl⟩
    · exact ⟨base, rt, offset, _, .lhu, misaligned, rfl⟩
    · exact ⟨base, rt, offset, _, .lw, misaligned, rfl⟩
    · exact ⟨base, rt, offset, _, .sh, misaligned, rfl⟩
    · exact ⟨base, rt, offset, _, .sw, misaligned, rfl⟩

/-- Settles O12: each of the five accesses, at an address without its alignment, is an entry of the handler alone. -/
theorem misalignedAccessMovesNothing : Obligations.MisalignedAccessMovesNothing := by
  refine fun base rt offset s => ⟨fun odd => ?_, fun notMultiple => ?_⟩
  · have misaligned := AccessWidth.misaligned_half_of_odd odd
    exact ⟨exec_entersHandler_of_misaligned (.lh (rt := rt)) misaligned,
      exec_entersHandler_of_misaligned (.lhu (rt := rt)) misaligned,
      exec_entersHandler_of_misaligned (.sh (rt := rt)) misaligned⟩
  · have misaligned := AccessWidth.misaligned_word_of_mod_four notMultiple
    exact ⟨exec_entersHandler_of_misaligned (.lw (rt := rt)) misaligned,
      exec_entersHandler_of_misaligned (.sw (rt := rt)) misaligned⟩

/-- Settles O13: the four bytes are in their places, and the halfwords and the word are put together from them. -/
theorem storedWordReadsBackAtEveryWidth : Obligations.StoredWordReadsBackAtEveryWidth := by
  intro base rt offset s t aligned executed
  have holds := exec_sw_holdsWord aligned executed
  exact ⟨holds.readByte_first, holds 1 (by omega), holds 2 (by omega), holds 3 (by omega),
    by simpa using holds.readHalf (k := 0) (by omega), holds.readHalf (k := 2) (by omega), holds.readWord⟩

/-- Settles O54, by the effects an instruction can have. -/
theorem onlyRegisterJumpsMisalignPc : Obligations.OnlyRegisterJumpsMisalignPc :=
  fun _ _ _ => exec_pc_aligned

end Sys2Proof.Proofs
end

section
/-! SUPPORT. The encoder, the decoder and the opcode table of 30_encoding.md against each other: a word is put together
from its fields layout by layout (R62), the decoder inverts the encoder and is inverted by it (R71 to R74, R76), and a
word that matches a row of R75 is the word of an instruction of that row. -/

namespace Sys2Proof

/-! ## A word with its fixed fields in place is its layout over its other fields (R62) -/

section Layouts

variable {w : Word}

theorem encodeI_of_fields {o : BitVec 6} (op : opcodeField w = o) :
    encodeI o (rsField w) (rtField w) (immField w) = w := by
  rw [← op, encodeI_fields]

theorem encodeLui_of_fields {o : BitVec 6} (op : opcodeField w = o) (rs : rsField w = 0) :
    encodeI o 0 (rtField w) (immField w) = w := by
  rw [← rs, encodeI_of_fields op]

theorem encodeBranchZero_of_fields {o : BitVec 6} {sub : BitVec 5} (op : opcodeField w = o) (rt : rtField w = sub) :
    encodeI o (rsField w) sub (immField w) = w := by
  rw [← rt, encodeI_of_fields op]

theorem encodeJ_of_fields {o : BitVec 6} (op : opcodeField w = o) : encodeJ o (indexField w) = w := by
  rw [← op, encodeJ_fields]

theorem encodeSpecial_of_fields {f : BitVec 6} (op : opcodeField w = 0b000000#6) (fn : functionField w = f) :
    encodeSpecial (rsField w) (rtField w) (rdField w) (shiftField w) f = w := by
  rw [← fn, encodeSpecial_fields w op]

theorem encodeR_of_fields {f : BitVec 6} (op : opcodeField w = 0b000000#6) (fn : functionField w = f)
    (s : shiftField w = 0) : encodeSpecial (rsField w) (rtField w) (rdField w) 0 f = w := by
  rw [← s, encodeSpecial_of_fields op fn]

theorem encodeShift_of_fields {f : BitVec 6} (op : opcodeField w = 0b000000#6) (fn : functionField w = f)
    (rs : rsField w = 0) : encodeSpecial 0 (rtField w) (rdField w) (shiftField w) f = w := by
  rw [← rs, encodeSpecial_of_fields op fn]

theorem encodeJalr_of_fields {f : BitVec 6} (op : opcodeField w = 0b000000#6) (fn : functionField w = f)
    (rt : rtField w = 0) (s : shiftField w = 0) : encodeSpecial (rsField w) 0 (rdField w) 0 f = w := by
  simpa only [rt] using encodeR_of_fields op fn s

theorem encodeMulDiv_of_fields {f : BitVec 6} (op : opcodeField w = 0b000000#6) (fn : functionField w = f)
    (rd : rdField w = 0) (s : shiftField w = 0) : encodeSpecial (rsField w) (rtField w) 0 0 f = w := by
  simpa only [rd] using encodeR_of_fields op fn s

theorem encodeMoveFrom_of_fields {f : BitVec 6} (op : opcodeField w = 0b000000#6) (fn : functionField w = f)
    (rs : rsField w = 0) (rt : rtField w = 0) (s : shiftField w = 0) :
    encodeSpecial 0 0 (rdField w) 0 f = w := by
  simpa only [rs] using encodeJalr_of_fields op fn rt s

theorem encodeOneSource_of_fields {f : BitVec 6} (op : opcodeField w = 0b000000#6) (fn : functionField w = f)
    (rt : rtField w = 0) (rd : rdField w = 0) (s : shiftField w = 0) :
    encodeSpecial (rsField w) 0 0 0 f = w := by
  simpa only [rd] using encodeJalr_of_fields op fn rt s

theorem encodeTrap_of_fields {f : BitVec 6} (op : opcodeField w = 0b000000#6) (fn : functionField w = f) :
    encodeTrap (codeField w) f = w := by
  rw [← fn, encodeTrap_fields w op]

theorem encodeCop0Move_of_fields {sub : BitVec 5} (op : opcodeField w = 0b010000#6) (rs : rsField w = sub)
    (low : lowField w = 0) : encodeCop0Move sub (rtField w) (rdField w) = w := by
  rw [← rs, encodeCop0Move_fields w op low]

end Layouts

/-! ## The decoder inverts the encoder -/

theorem decode_encode (i : Instr) : decode (encode i) = .ok i := by
  cases i with
  | lb | lbu | lh | lhu | lw | sb | sh | sw | addi | addiu | andi | ori | xori | slti | sltiu | beq | bne =>
    simp [encode, decode, decodeI]
  | lui => simp [encode, decode, requireZero]
  | blez | bgtz => simp [encode, decode, decodeBranchZero, requireZero]
  | bltz | bgez => simp [encode, decode, decodeRegimm]
  | j | jal => simp [encode, decode]
  | add | addu | sub | subu | slt | sltu | sllv | srlv | srav | and | or | xor | nor =>
    simp [encode, decode, decodeSpecial, decodeR, requireZero]
  | sll | srl | sra => simp [encode, decode, decodeSpecial, decodeShift, requireZero]
  | mult | multu | div | divu => simp [encode, decode, decodeSpecial, decodeMulDiv, requireZero]
  | mfhi | mflo => simp [encode, decode, decodeSpecial, decodeMoveFrom, requireZero]
  | mthi | mtlo | jr => simp [encode, decode, decodeSpecial, decodeOneSource, requireZero]
  | jalr => simp [encode, decode, decodeSpecial, decodeJalr, requireZero]
  | brk | syscall => simp [encode, decode, decodeSpecial]
  | mfc0 | mtc0 => simp [encode, decode, decodeCop0, requireZero]
  | eret => rfl

/-- The bytes of a word at rising addresses decode as the word does (R60). -/
theorem decodeBytes_bytesOfWord {w : Word} {i : Instr} (h : decode w = .ok i) (rest : List Byte) :
    decodeBytes (bytesOfWord w ++ rest) = .ok (i, rest) := by
  simp [decodeBytes, bytesOfWord, Machine.wordOfBytes_byteOfWord, h]

/-! ## The encoder inverts the decoder -/

section Inversion

variable {w : Word} {i : Instr} {mnemonic : String}

theorem requireZero_eq_ok_iff {zero : Bool} {j : Instr} :
    requireZero zero mnemonic j = .ok i ↔ zero = true ∧ j = i := by
  cases zero <;> simp [requireZero]

theorem encode_of_decodeI {make : Reg → Reg → BitVec 16 → Instr} {o : BitVec 6}
    (enc : ∀ a b c, encode (make a b c) = encodeI o a b c) (op : opcodeField w = o) (h : decodeI make w = .ok i) :
    encode i = w := by
  cases h
  rw [enc, encodeI_of_fields op]

theorem encode_of_decodeBranchZero {make : Reg → BitVec 16 → Instr} {o : BitVec 6}
    (enc : ∀ a c, encode (make a c) = encodeI o a 0 c) (op : opcodeField w = o)
    (h : decodeBranchZero mnemonic make w = .ok i) : encode i = w := by
  obtain ⟨rt, rfl⟩ := requireZero_eq_ok_iff.mp h
  rw [enc, encodeBranchZero_of_fields op (eq_of_beq rt)]

theorem encode_of_decodeR {make : Reg → Reg → Reg → Instr} {f : BitVec 6}
    (enc : ∀ a b c, encode (make a b c) = encodeSpecial a b c 0 f) (op : opcodeField w = 0b000000#6)
    (fn : functionField w = f) (h : decodeR mnemonic make w = .ok i) : encode i = w := by
  obtain ⟨s, rfl⟩ := requireZero_eq_ok_iff.mp h
  rw [enc, encodeR_of_fields op fn (eq_of_beq s)]

theorem encode_of_decodeShift {make : Reg → Reg → BitVec 5 → Instr} {f : BitVec 6}
    (enc : ∀ b c d, encode (make b c d) = encodeSpecial 0 b c d f) (op : opcodeField w = 0b000000#6)
    (fn : functionField w = f) (h : decodeShift mnemonic make w = .ok i) : encode i = w := by
  obtain ⟨rs, rfl⟩ := requireZero_eq_ok_iff.mp h
  rw [enc, encodeShift_of_fields op fn (eq_of_beq rs)]

theorem encode_of_decodeMulDiv {make : Reg → Reg → Instr} {f : BitVec 6}
    (enc : ∀ a b, encode (make a b) = encodeSpecial a b 0 0 f) (op : opcodeField w = 0b000000#6)
    (fn : functionField w = f) (h : decodeMulDiv mnemonic make w = .ok i) : encode i = w := by
  obtain ⟨zero, rfl⟩ := requireZero_eq_ok_iff.mp h
  simp only [Bool.and_eq_true, beq_iff_eq] at zero
  obtain ⟨rd, s⟩ := zero
  rw [enc, encodeMulDiv_of_fields op fn rd s]

theorem encode_of_decodeMoveFrom {make : Reg → Instr} {f : BitVec 6}
    (enc : ∀ c, encode (make c) = encodeSpecial 0 0 c 0 f) (op : opcodeField w = 0b000000#6)
    (fn : functionField w = f) (h : decodeMoveFrom mnemonic make w = .ok i) : encode i = w := by
  obtain ⟨zero, rfl⟩ := requireZero_eq_ok_iff.mp h
  simp only [Bool.and_eq_true, beq_iff_eq] at zero
  obtain ⟨⟨rs, rt⟩, s⟩ := zero
  rw [enc, encodeMoveFrom_of_fields op fn rs rt s]

theorem encode_of_decodeOneSource {make : Reg → Instr} {f : BitVec 6}
    (enc : ∀ a, encode (make a) = encodeSpecial a 0 0 0 f) (op : opcodeField w = 0b000000#6)
    (fn : functionField w = f) (h : decodeOneSource mnemonic make w = .ok i) : encode i = w := by
  obtain ⟨zero, rfl⟩ := requireZero_eq_ok_iff.mp h
  simp only [Bool.and_eq_true, beq_iff_eq] at zero
  obtain ⟨⟨rt, rd⟩, s⟩ := zero
  rw [enc, encodeOneSource_of_fields op fn rt rd s]

theorem encode_of_decodeJalr (op : opcodeField w = 0b000000#6) (fn : functionField w = 0b001001#6)
    (h : decodeJalr w = .ok i) : encode i = w := by
  obtain ⟨zero, rfl⟩ := requireZero_eq_ok_iff.mp h
  simp only [Bool.and_eq_true, beq_iff_eq] at zero
  obtain ⟨rt, s⟩ := zero
  exact encodeJalr_of_fields op fn rt s

theorem encode_of_decodeCop0Move {make : Reg → Cp0Reg → Instr} {sub : BitVec 5}
    (enc : ∀ b c, encode (make b c) = encodeCop0Move sub b c) (op : opcodeField w = 0b010000#6)
    (rs : rsField w = sub) (h : requireZero (lowField w == 0) mnemonic (make (rtField w) (rdField w)) = .ok i) :
    encode i = w := by
  obtain ⟨low, rfl⟩ := requireZero_eq_ok_iff.mp h
  rw [enc, encodeCop0Move_of_fields op rs (eq_of_beq low)]

/-- Opcode 000000, the arms grouped by layout (R72). -/
theorem encode_of_decodeSpecial (op : opcodeField w = 0b000000#6) (h : decodeSpecial w = .ok i) : encode i = w := by
  unfold decodeSpecial at h
  split at h
  case h_1 fn | h_2 fn | h_3 fn => exact encode_of_decodeShift (fun _ _ _ => rfl) op fn h
  case h_7 fn | h_12 fn | h_14 fn => exact encode_of_decodeOneSource (fun _ => rfl) op fn h
  case h_8 fn => exact encode_of_decodeJalr op fn h
  case h_9 fn | h_10 fn => cases h; exact encodeTrap_of_fields op fn
  case h_11 fn | h_13 fn => exact encode_of_decodeMoveFrom (fun _ => rfl) op fn h
  case h_15 fn | h_16 fn | h_17 fn | h_18 fn => exact encode_of_decodeMulDiv (fun _ _ => rfl) op fn h
  case h_29 => cases h
  all_goals next fn => exact encode_of_decodeR (fun _ _ _ => rfl) op fn h

/-- Opcode 000001 (R73). -/
theorem encode_of_decodeRegimm (op : opcodeField w = 0b000001#6) (h : decodeRegimm w = .ok i) : encode i = w := by
  unfold decodeRegimm at h
  split at h
  next rt => cases h; exact encodeBranchZero_of_fields op rt
  next rt => cases h; exact encodeBranchZero_of_fields op rt
  next => cases h

/-- Opcode 010000 (R74). -/
theorem encode_of_decodeCop0 (op : opcodeField w = 0b010000#6) (h : decodeCop0 w = .ok i) : encode i = w := by
  unfold decodeCop0 at h
  split at h
  next rs => exact encode_of_decodeCop0Move (fun _ _ => rfl) op rs h
  next rs => exact encode_of_decodeCop0Move (fun _ _ => rfl) op rs h
  next =>
    split at h
    next isEret => cases h; exact isEret.symm
    next => cases h
  next => cases h

/-- Whatever a word decodes to has that word, so that every bit of it is fixed or in a field (R71, the arms grouped by
layout). -/
theorem encode_of_decode (h : decode w = .ok i) : encode i = w := by
  unfold decode at h
  split at h
  case h_1 op => exact encode_of_decodeSpecial op h
  case h_2 op => exact encode_of_decodeRegimm op h
  case h_3 op | h_4 op => cases h; exact encodeJ_of_fields op
  case h_7 op | h_8 op => exact encode_of_decodeBranchZero (fun _ _ => rfl) op h
  case h_16 op =>
    obtain ⟨rs, rfl⟩ := requireZero_eq_ok_iff.mp h
    exact encodeLui_of_fields op (eq_of_beq rs)
  case h_17 op => exact encode_of_decodeCop0 op h
  case h_26 => cases h
  all_goals next op => exact encode_of_decodeI (fun _ _ _ => rfl) op h

end Inversion

theorem decode_eq_ok_iff {w : Word} {i : Instr} : decode w = .ok i ↔ encode i = w :=
  ⟨encode_of_decode, fun h => h ▸ decode_encode i⟩

/-! ## A word that matches a row is the word of an instruction of that row (R75) -/

section Match

variable {w m p : Word}

/-- Where a mask covers a field, a word that matches has the pattern's value there. -/
theorem extractLsb'_of_match {k n : Nat} {v : BitVec n} (h : w &&& m = p)
    (covered : m.extractLsb' k n = BitVec.allOnes n) (value : p.extractLsb' k n = v) : w.extractLsb' k n = v := by
  rw [← value, ← h, BitVec.extractLsb'_and, covered, BitVec.and_allOnes]

/-! Each mask of the table covers the fixed fields of one layout. -/

theorem opcodeField_of_match {o : BitVec 6} (h : w &&& 0xFC000000#32 = p) (op : opcodeField p = o) :
    opcodeField w = o :=
  extractLsb'_of_match h (by decide) op

theorem encodeI_of_match {o : BitVec 6} (h : w &&& 0xFC000000#32 = p) (op : opcodeField p = o) :
    encodeI o (rsField w) (rtField w) (immField w) = w :=
  encodeI_of_fields (opcodeField_of_match h op)

theorem encodeJ_of_match {o : BitVec 6} (h : w &&& 0xFC000000#32 = p) (op : opcodeField p = o) :
    encodeJ o (indexField w) = w :=
  encodeJ_of_fields (opcodeField_of_match h op)

theorem encodeLui_of_match {o : BitVec 6} (h : w &&& 0xFFE00000#32 = p) (op : opcodeField p = o)
    (rs : rsField p = 0) : encodeI o 0 (rtField w) (immField w) = w :=
  encodeLui_of_fields (extractLsb'_of_match h (by decide) op) (extractLsb'_of_match h (by decide) rs)

theorem encodeBranchZero_of_match {o : BitVec 6} {sub : BitVec 5} (h : w &&& 0xFC1F0000#32 = p)
    (op : opcodeField p = o) (rt : rtField p = sub) : encodeI o (rsField w) sub (immField w) = w :=
  encodeBranchZero_of_fields (extractLsb'_of_match h (by decide) op) (extractLsb'_of_match h (by decide) rt)

theorem encodeR_of_match {f : BitVec 6} (h : w &&& 0xFC0007FF#32 = p) (op : opcodeField p = 0b000000#6)
    (fn : functionField p = f) (s : shiftField p = 0) :
    encodeSpecial (rsField w) (rtField w) (rdField w) 0 f = w :=
  encodeR_of_fields (extractLsb'_of_match h (by decide) op) (extractLsb'_of_match h (by decide) fn)
    (extractLsb'_of_match h (by decide) s)

theorem encodeShift_of_match {f : BitVec 6} (h : w &&& 0xFFE0003F#32 = p) (op : opcodeField p = 0b000000#6)
    (fn : functionField p = f) (rs : rsField p = 0) :
    encodeSpecial 0 (rtField w) (rdField w) (shiftField w) f = w :=
  encodeShift_of_fields (extractLsb'_of_match h (by decide) op) (extractLsb'_of_match h (by decide) fn)
    (extractLsb'_of_match h (by decide) rs)

theorem encodeJalr_of_match {f : BitVec 6} (h : w &&& 0xFC1F07FF#32 = p) (op : opcodeField p = 0b000000#6)
    (fn : functionField p = f) (rt : rtField p = 0) (s : shiftField p = 0) :
    encodeSpecial (rsField w) 0 (rdField w) 0 f = w :=
  encodeJalr_of_fields (extractLsb'_of_match h (by decide) op) (extractLsb'_of_match h (by decide) fn)
    (extractLsb'_of_match h (by decide) rt) (extractLsb'_of_match h (by decide) s)

theorem encodeMulDiv_of_match {f : BitVec 6} (h : w &&& 0xFC00FFFF#32 = p) (op : opcodeField p = 0b000000#6)
    (fn : functionField p = f) (rd : rdField p = 0) (s : shiftField p = 0) :
    encodeSpecial (rsField w) (rtField w) 0 0 f = w :=
  encodeMulDiv_of_fields (extractLsb'_of_match h (by decide) op) (extractLsb'_of_match h (by decide) fn)
    (extractLsb'_of_match h (by decide) rd) (extractLsb'_of_match h (by decide) s)

theorem encodeMoveFrom_of_match {f : BitVec 6} (h : w &&& 0xFFFF07FF#32 = p) (op : opcodeField p = 0b000000#6)
    (fn : functionField p = f) (rs : rsField p = 0) (rt : rtField p = 0) (s : shiftField p = 0) :
    encodeSpecial 0 0 (rdField w) 0 f = w :=
  encodeMoveFrom_of_fields (extractLsb'_of_match h (by decide) op) (extractLsb'_of_match h (by decide) fn)
    (extractLsb'_of_match h (by decide) rs) (extractLsb'_of_match h (by decide) rt) (extractLsb'_of_match h (by decide) s)

theorem encodeOneSource_of_match {f : BitVec 6} (h : w &&& 0xFC1FFFFF#32 = p) (op : opcodeField p = 0b000000#6)
    (fn : functionField p = f) (rt : rtField p = 0) (rd : rdField p = 0) (s : shiftField p = 0) :
    encodeSpecial (rsField w) 0 0 0 f = w :=
  encodeOneSource_of_fields (extractLsb'_of_match h (by decide) op) (extractLsb'_of_match h (by decide) fn)
    (extractLsb'_of_match h (by decide) rt) (extractLsb'_of_match h (by decide) rd) (extractLsb'_of_match h (by decide) s)

theorem encodeTrap_of_match {f : BitVec 6} (h : w &&& 0xFC00003F#32 = p) (op : opcodeField p = 0b000000#6)
    (fn : functionField p = f) : encodeTrap (codeField w) f = w :=
  encodeTrap_of_fields (extractLsb'_of_match h (by decide) op) (extractLsb'_of_match h (by decide) fn)

theorem encodeCop0Move_of_match {sub : BitVec 5} (h : w &&& 0xFFE007FF#32 = p) (op : opcodeField p = 0b010000#6)
    (rs : rsField p = sub) (low : lowField p = 0) : encodeCop0Move sub (rtField w) (rdField w) = w :=
  encodeCop0Move_of_fields (extractLsb'_of_match h (by decide) op) (extractLsb'_of_match h (by decide) rs)
    (extractLsb'_of_match h (by decide) low)

end Match

/-- A word that matches the row is the word of an instruction of that row. -/
def OpcodeRow.Covers (w : Word) (r : OpcodeRow) : Prop :=
  w &&& r.mask = r.pattern → ∃ i, encode i = w ∧ i.mnemonic = r.mnemonic

theorem opcodeRowsImmediate_cover (w : Word) : ∀ r ∈ opcodeRowsImmediate, r.Covers w := by
  simp only [opcodeRowsImmediate, List.forall_mem_cons]
  exact ⟨
    fun h => ⟨.lb _ _ _, encodeI_of_match h rfl, rfl⟩,
    fun h => ⟨.lbu _ _ _, encodeI_of_match h rfl, rfl⟩,
    fun h => ⟨.lh _ _ _, encodeI_of_match h rfl, rfl⟩,
    fun h => ⟨.lhu _ _ _, encodeI_of_match h rfl, rfl⟩,
    fun h => ⟨.lw _ _ _, encodeI_of_match h rfl, rfl⟩,
    fun h => ⟨.sb _ _ _, encodeI_of_match h rfl, rfl⟩,
    fun h => ⟨.sh _ _ _, encodeI_of_match h rfl, rfl⟩,
    fun h => ⟨.sw _ _ _, encodeI_of_match h rfl, rfl⟩,
    fun h => ⟨.addi _ _ _, encodeI_of_match h rfl, rfl⟩,
    fun h => ⟨.addiu _ _ _, encodeI_of_match h rfl, rfl⟩,
    fun h => ⟨.andi _ _ _, encodeI_of_match h rfl, rfl⟩,
    fun h => ⟨.ori _ _ _, encodeI_of_match h rfl, rfl⟩,
    fun h => ⟨.xori _ _ _, encodeI_of_match h rfl, rfl⟩,
    fun h => ⟨.lui _ _, encodeLui_of_match h rfl rfl, rfl⟩,
    fun h => ⟨.slti _ _ _, encodeI_of_match h rfl, rfl⟩,
    fun h => ⟨.sltiu _ _ _, encodeI_of_match h rfl, rfl⟩,
    fun h => ⟨.beq _ _ _, encodeI_of_match h rfl, rfl⟩,
    fun h => ⟨.bne _ _ _, encodeI_of_match h rfl, rfl⟩,
    fun h => ⟨.blez _ _, encodeBranchZero_of_match h rfl rfl, rfl⟩,
    fun h => ⟨.bgtz _ _, encodeBranchZero_of_match h rfl rfl, rfl⟩,
    fun h => ⟨.bltz _ _, encodeBranchZero_of_match h rfl rfl, rfl⟩,
    fun h => ⟨.bgez _ _, encodeBranchZero_of_match h rfl rfl, rfl⟩,
    List.forall_mem_nil _⟩

theorem opcodeRowsSpecial_cover (w : Word) : ∀ r ∈ opcodeRowsSpecial, r.Covers w := by
  simp only [opcodeRowsSpecial, List.forall_mem_cons]
  exact ⟨
    fun h => ⟨.add _ _ _, encodeR_of_match h rfl rfl rfl, rfl⟩,
    fun h => ⟨.addu _ _ _, encodeR_of_match h rfl rfl rfl, rfl⟩,
    fun h => ⟨.sub _ _ _, encodeR_of_match h rfl rfl rfl, rfl⟩,
    fun h => ⟨.subu _ _ _, encodeR_of_match h rfl rfl rfl, rfl⟩,
    fun h => ⟨.mult _ _, encodeMulDiv_of_match h rfl rfl rfl rfl, rfl⟩,
    fun h => ⟨.multu _ _, encodeMulDiv_of_match h rfl rfl rfl rfl, rfl⟩,
    fun h => ⟨.div _ _, encodeMulDiv_of_match h rfl rfl rfl rfl, rfl⟩,
    fun h => ⟨.divu _ _, encodeMulDiv_of_match h rfl rfl rfl rfl, rfl⟩,
    fun h => ⟨.slt _ _ _, encodeR_of_match h rfl rfl rfl, rfl⟩,
    fun h => ⟨.sltu _ _ _, encodeR_of_match h rfl rfl rfl, rfl⟩,
    fun h => ⟨.sll _ _ _, encodeShift_of_match h rfl rfl rfl, rfl⟩,
    fun h => ⟨.srl _ _ _, encodeShift_of_match h rfl rfl rfl, rfl⟩,
    fun h => ⟨.sra _ _ _, encodeShift_of_match h rfl rfl rfl, rfl⟩,
    fun h => ⟨.sllv _ _ _, encodeR_of_match h rfl rfl rfl, rfl⟩,
    fun h => ⟨.srlv _ _ _, encodeR_of_match h rfl rfl rfl, rfl⟩,
    fun h => ⟨.srav _ _ _, encodeR_of_match h rfl rfl rfl, rfl⟩,
    fun h => ⟨.and _ _ _, encodeR_of_match h rfl rfl rfl, rfl⟩,
    fun h => ⟨.or _ _ _, encodeR_of_match h rfl rfl rfl, rfl⟩,
    fun h => ⟨.xor _ _ _, encodeR_of_match h rfl rfl rfl, rfl⟩,
    fun h => ⟨.nor _ _ _, encodeR_of_match h rfl rfl rfl, rfl⟩,
    fun h => ⟨.jalr _ _, encodeJalr_of_match h rfl rfl rfl rfl, rfl⟩,
    fun h => ⟨.jr _, encodeOneSource_of_match h rfl rfl rfl rfl rfl, rfl⟩,
    fun h => ⟨.mfhi _, encodeMoveFrom_of_match h rfl rfl rfl rfl rfl, rfl⟩,
    fun h => ⟨.mflo _, encodeMoveFrom_of_match h rfl rfl rfl rfl rfl, rfl⟩,
    fun h => ⟨.mthi _, encodeOneSource_of_match h rfl rfl rfl rfl rfl, rfl⟩,
    fun h => ⟨.mtlo _, encodeOneSource_of_match h rfl rfl rfl rfl rfl, rfl⟩,
    fun h => ⟨.brk _, encodeTrap_of_match h rfl rfl, rfl⟩,
    fun h => ⟨.syscall _, encodeTrap_of_match h rfl rfl, rfl⟩,
    List.forall_mem_nil _⟩

theorem opcodeRowsOther_cover (w : Word) : ∀ r ∈ opcodeRowsOther, r.Covers w := by
  simp only [opcodeRowsOther, List.forall_mem_cons]
  exact ⟨
    fun h => ⟨.j _, encodeJ_of_match h rfl, rfl⟩,
    fun h => ⟨.jal _, encodeJ_of_match h rfl, rfl⟩,
    fun h => ⟨.eret, h.symm.trans BitVec.and_allOnes, rfl⟩,
    fun h => ⟨.mfc0 _ _, encodeCop0Move_of_match h rfl rfl rfl, rfl⟩,
    fun h => ⟨.mtc0 _ _, encodeCop0Move_of_match h rfl rfl rfl, rfl⟩,
    List.forall_mem_nil _⟩

theorem opcodeTable_covers (w : Word) : ∀ r ∈ opcodeTable, r.Covers w :=
  List.forall_mem_append.mpr ⟨opcodeRowsImmediate_cover w,
    List.forall_mem_append.mpr ⟨opcodeRowsSpecial_cover w, opcodeRowsOther_cover w⟩⟩

/-- Every instruction's word matches the row of its mnemonic, by the laws made instruction by instruction. -/
theorem encode_matches_row (i : Instr) : Laws.EncodedInRow.Statement i := by
  cases i with
  | lb => exact Laws.EncodedInRow.lb _ _ _
  | lbu => exact Laws.EncodedInRow.lbu _ _ _
  | lh => exact Laws.EncodedInRow.lh _ _ _
  | lhu => exact Laws.EncodedInRow.lhu _ _ _
  | lw => exact Laws.EncodedInRow.lw _ _ _
  | sb => exact Laws.EncodedInRow.sb _ _ _
  | sh => exact Laws.EncodedInRow.sh _ _ _
  | sw => exact Laws.EncodedInRow.sw _ _ _
  | add => exact Laws.EncodedInRow.add _ _ _
  | addu => exact Laws.EncodedInRow.addu _ _ _
  | sub => exact Laws.EncodedInRow.sub _ _ _
  | subu => exact Laws.EncodedInRow.subu _ _ _
  | mult => exact Laws.EncodedInRow.mult _ _
  | multu => exact Laws.EncodedInRow.multu _ _
  | div => exact Laws.EncodedInRow.div _ _
  | divu => exact Laws.EncodedInRow.divu _ _
  | slt => exact Laws.EncodedInRow.slt _ _ _
  | sltu => exact Laws.EncodedInRow.sltu _ _ _
  | sll => exact Laws.EncodedInRow.sll _ _ _
  | srl => exact Laws.EncodedInRow.srl _ _ _
  | sra => exact Laws.EncodedInRow.sra _ _ _
  | sllv => exact Laws.EncodedInRow.sllv _ _ _
  | srlv => exact Laws.EncodedInRow.srlv _ _ _
  | srav => exact Laws.EncodedInRow.srav _ _ _
  | and => exact Laws.EncodedInRow.and _ _ _
  | or => exact Laws.EncodedInRow.or _ _ _
  | xor => exact Laws.EncodedInRow.xor _ _ _
  | nor => exact Laws.EncodedInRow.nor _ _ _
  | addi => exact Laws.EncodedInRow.addi _ _ _
  | addiu => exact Laws.EncodedInRow.addiu _ _ _
  | andi => exact Laws.EncodedInRow.andi _ _ _
  | ori => exact Laws.EncodedInRow.ori _ _ _
  | xori => exact Laws.EncodedInRow.xori _ _ _
  | lui => exact Laws.EncodedInRow.lui _ _
  | slti => exact Laws.EncodedInRow.slti _ _ _
  | sltiu => exact Laws.EncodedInRow.sltiu _ _ _
  | beq => exact Laws.EncodedInRow.beq _ _ _
  | bne => exact Laws.EncodedInRow.bne _ _ _
  | blez => exact Laws.EncodedInRow.blez _ _
  | bgtz => exact Laws.EncodedInRow.bgtz _ _
  | bltz => exact Laws.EncodedInRow.bltz _ _
  | bgez => exact Laws.EncodedInRow.bgez _ _
  | j => exact Laws.EncodedInRow.j _
  | jal => exact Laws.EncodedInRow.jal _
  | jalr => exact Laws.EncodedInRow.jalr _ _
  | jr => exact Laws.EncodedInRow.jr _
  | mfhi => exact Laws.EncodedInRow.mfhi _
  | mflo => exact Laws.EncodedInRow.mflo _
  | mthi => exact Laws.EncodedInRow.mthi _
  | mtlo => exact Laws.EncodedInRow.mtlo _
  | eret => exact Laws.EncodedInRow.eret
  | mfc0 => exact Laws.EncodedInRow.mfc0 _ _
  | mtc0 => exact Laws.EncodedInRow.mtc0 _ _
  | brk => exact Laws.EncodedInRow.brk _
  | syscall => exact Laws.EncodedInRow.syscall _

theorem opcodeTable_mnemonic_injective {r q : OpcodeRow} (hr : r ∈ opcodeTable) (hq : q ∈ opcodeTable)
    (h : r.mnemonic = q.mnemonic) : r = q :=
  have distinct : (opcodeTable.map OpcodeRow.mnemonic).Nodup := by decide
  List.inj_on_of_nodup_map distinct hr hq h

/-- A word matches a row exactly when it decodes to an instruction of the row. -/
theorem match_iff_decode {r : OpcodeRow} (hr : r ∈ opcodeTable) (w : Word) :
    w &&& r.mask = r.pattern ↔ ∃ i, decode w = .ok i ∧ i.mnemonic = r.mnemonic := by
  simp only [decode_eq_ok_iff]
  constructor
  · exact opcodeTable_covers w r hr
  · rintro ⟨i, rfl, name⟩
    obtain ⟨q, hq, qName, matched⟩ := encode_matches_row i
    obtain rfl := opcodeTable_mnemonic_injective hr hq (name.symm.trans qName.symm)
    exact matched

/-- At most one row matches a word, since the word decodes to an instruction of each row it matches. -/
theorem row_eq_of_match {w : Word} {r q : OpcodeRow} (hr : r ∈ opcodeTable) (hq : q ∈ opcodeTable)
    (matchesR : w &&& r.mask = r.pattern) (matchesQ : w &&& q.mask = q.pattern) : r = q := by
  obtain ⟨i, decodedR, nameR⟩ := (match_iff_decode hr w).mp matchesR
  obtain ⟨j, decodedQ, nameQ⟩ := (match_iff_decode hq w).mp matchesQ
  obtain rfl : i = j := Except.ok.inj (decodedR.symm.trans decodedQ)
  exact opcodeTable_mnemonic_injective hr hq (nameR.symm.trans nameQ)

/-- An instruction's word matches a row, so a word that matches none decodes to an error (R76). -/
theorem decode_error_of_matchesNoRow {w : Word} (h : Claims.MatchesNoRow w) : ∃ e, decode w = .error e := by
  cases decoded : decode w with
  | error e => exact ⟨e, rfl⟩
  | ok i =>
    obtain ⟨r, hr, -, matched⟩ := encode_matches_row i
    rw [encode_of_decode decoded] at matched
    exact absurd matched (h r hr)

end Sys2Proof

/-! ## Where branches and jumps go (R67, R68) -/

namespace Sys2Proof.Machine

/-- Two zero bits appended make the signed offset count words. -/
theorem signExtend_append_zeros (offset : BitVec 16) :
    (offset ++ 0#2).signExtend 32 = BitVec.ofInt 32 (4 * offset.toInt) := by
  rw [BitVec.signExtend, BitVec.toInt_append_zero]
  rfl

/-- A branch completes at its target or at the next instruction. -/
theorem branchIf_completes (s : State) (taken : Bool) (target : Word) :
    ∃ t, branchIf s taken target = .next t ∧ (t.pc = target ∨ t.pc = s.pc + 4#32) := by
  cases taken with
  | true => exact ⟨_, rfl, .inl rfl⟩
  | false => exact ⟨_, rfl, .inr rfl⟩

theorem exec_beq_self (rs : Reg) (offset : BitVec 16) (s : State) :
    exec (.beq rs rs offset) s = .next (s.setPc (branchTarget s offset)) := by
  simp [exec, execBeq, branchIf]

/-- The target of J and JAL is a word of the 256 MB region of pc. -/
theorem jumpTarget_toNat (s : State) (index : BitVec 26) :
    (jumpTarget s index).toNat = s.pc.toNat / 268435456 * 268435456 + 4 * index.toNat := by
  rw [jumpTarget, BitVec.toNat_append, BitVec.toNat_append, ← Nat.shiftLeft_add_eq_or_of_lt index.isLt,
    ← Nat.shiftLeft_add_eq_or_of_lt (0#2).isLt, BitVec.extractLsb'_toNat]
  simp only [Nat.shiftLeft_eq, Nat.shiftRight_eq_div_pow, BitVec.toNat_ofNat]
  have := s.pc.isLt
  omega

/-! ## A result for register 0 is discarded (R22) -/

theorem writeBack_zero (s : State) (v : Word) : writeBack s 0#5 v = .next s.advancePc := by
  rw [writeBack, State.setX_zero]

end Sys2Proof.Machine
end

section
/-! The statements of 30_encoding.md. -/

namespace Sys2Proof.Proofs

open Sys2Proof.Machine Sys2Proof.Claims

/-- Settles O2, by the fields each layout puts back in their places. -/
theorem decodeInvertsEncode : Obligations.DecodeInvertsEncode :=
  fun i rest => ⟨decode_encode i, decodeBytes_bytesOfWord (decode_encode i) rest⟩

/-- Settles O3: decoding and encoding are inverse to each other, and each row covers the words of its instructions. -/
theorem decodeFollowsOpcodeTable : Obligations.DecodeFollowsOpcodeTable :=
  ⟨fun w _ hr => match_iff_decode hr w, fun _ _ hr _ hq => row_eq_of_match hr hq,
    fun _ => decode_error_of_matchesNoRow, fun _ _ => encode_of_decode⟩

/-- Settles O28: each of the six branches is branchIf at the branch target. -/
theorem branchOffsetCountsInstructions : Obligations.BranchOffsetCountsInstructions := by
  refine fun s rs rt offset => ⟨signExtend_append_zeros offset, exec_beq_self rs offset s, ?_⟩
  simp only [List.forall_mem_cons]
  exact ⟨branchIf_completes _ _ _, branchIf_completes _ _ _, branchIf_completes _ _ _, branchIf_completes _ _ _,
    branchIf_completes _ _ _, branchIf_completes _ _ _, List.forall_mem_nil _⟩

/-- Settles O31, by the value of the jump target. -/
theorem jumpsStayInTheirRegion : Obligations.JumpsStayInTheirRegion :=
  fun index s => ⟨⟨_, rfl, jumpTarget_toNat s index⟩, ⟨_, rfl, jumpTarget_toNat s index⟩⟩

/-- Settles O1: each sample is the word of its instruction, and decoding inverts encoding. -/
theorem sampleWordsDecode : Obligations.SampleWordsDecode :=
  ⟨decode_encode (.lb 16 3 3), decode_encode (.sw 16 3 8), decode_encode (.add 18 19 17), decode_encode (.sll 18 17 5),
    decode_encode (.addi 18 17 0xFFFF), decode_encode (.bgez 17 0xFFFE), decode_encode (.jalr 31 17),
    decode_encode (.mthi 17), decode_encode (.mtc0 17 1), decode_encode .eret, decode_encode (.brk 0x0048D)⟩

/-- Settles O4: the write to register 0 is discarded, and pc advances. -/
theorem nopOnlyAdvancesPc : Obligations.NopOnlyAdvancesPc :=
  ⟨decode_encode (.sll 0 0 0), fun s => writeBack_zero s _⟩

end Sys2Proof.Proofs
end

section
/-! SUPPORT. The aligned word that contains a byte (20_memory.md R41) holds the four bytes from its own address on, so a
load at an address in it takes the byte, the halfword or the word at the address's place (40_load.md). -/

namespace Sys2Proof.Machine

open Sys2Proof.Claims

/-! ## A word put together from its bytes (R40) -/

/-- Each byte of the word is the byte put in its place, the lowest first. -/
theorem byteOfWord_wordOfBytes (b : Nat → Byte) {k : Nat} (hk : k < 4) :
    byteOfWord (wordOfBytes (b 0) (b 1) (b 2) (b 3)) k = b k := by
  unfold byteOfWord wordOfBytes
  match k, hk with
  | 0, _ => exact BitVec.extractLsb'_append_eq_right
  | 1, _ =>
    rw [BitVec.extractLsb'_append_eq_of_le (by omega)]
    exact BitVec.extractLsb'_append_eq_right
  | 2, _ =>
    rw [BitVec.extractLsb'_append_eq_of_le (by omega), BitVec.extractLsb'_append_eq_of_le (by omega)]
    exact BitVec.extractLsb'_append_eq_right
  | 3, _ =>
    rw [BitVec.extractLsb'_append_eq_of_le (by omega), BitVec.extractLsb'_append_eq_of_le (by omega)]
    exact BitVec.extractLsb'_append_eq_left

theorem State.holdsWord_readWord (s : State) (a : Word) : HoldsWord s a (s.readWord a) := by
  intro k hk
  have bytes := byteOfWord_wordOfBytes (fun k => s.readByte (a + BitVec.ofNat 32 k)) hk
  rw [BitVec.add_zero] at bytes
  exact bytes.symm

/-! ## The word that contains an address (R41) -/

theorem containingWord_eq_readWord (s : State) (a : Word) : containingWord s a = s.readWord (a &&& 0xFFFFFFFC#32) := rfl

/-- The remainder by 4 is the two low bits. -/
theorem ofNat_mod_four (a : Word) : BitVec.ofNat 32 (a.toNat % 4) = a &&& 3#32 := by
  have low : a.toNat % 4 = a.toNat &&& 3 := (Nat.and_two_pow_sub_one_eq_mod a.toNat 2).symm
  rw [low, BitVec.ofNat_and, BitVec.ofNat_toNat, BitVec.setWidth_eq]

/-- The address of the containing word and the place in that word make up the address. -/
theorem containing_add_lane (a : Word) : (a &&& 0xFFFFFFFC#32) + BitVec.ofNat 32 (a.toNat % 4) = a := by
  have disjoint : (a &&& 0xFFFFFFFC#32) &&& (a &&& 3#32) = 0#32 :=
    calc (a &&& 0xFFFFFFFC#32) &&& (a &&& 3#32)
      _ = (a &&& a) &&& (0xFFFFFFFC#32 &&& 3#32) := by ac_rfl
      _ = 0#32 := BitVec.and_zero
  rw [ofNat_mod_four, BitVec.add_eq_or_of_and_eq_zero _ _ disjoint, ← BitVec.and_or_distrib_left]
  exact BitVec.and_allOnes

theorem State.readByte_eq_lane (s : State) (a : Word) :
    s.readByte a = (containingWord s a).extractLsb' (8 * (a.toNat % 4)) 8 := by
  have lane := s.holdsWord_readWord (a &&& 0xFFFFFFFC#32) (a.toNat % 4) (Nat.mod_lt _ (by omega))
  rwa [containing_add_lane] at lane

theorem State.readHalf_eq_lane (s : State) {a : Word} (even : a.toNat % 2 = 0) :
    s.readHalf a = (containingWord s a).extractLsb' (16 * (a.toNat % 4 / 2)) 16 := by
  have lane := (s.holdsWord_readWord (a &&& 0xFFFFFFFC#32)).readHalf (k := a.toNat % 4) (by omega)
  rw [containing_add_lane] at lane
  rw [lane, containingWord_eq_readWord, show 16 * (a.toNat % 4 / 2) = 8 * (a.toNat % 4) by omega]

theorem State.readWord_eq_containingWord (s : State) {a : Word} (aligned : a.toNat % 4 = 0) :
    s.readWord a = containingWord s a := by
  have same := containing_add_lane a
  rw [aligned, BitVec.add_zero] at same
  rw [containingWord_eq_readWord, same]

/-! ## A load that goes on (40_load.md R100) -/

theorem AccessWidth.aligned_half_iff (a : Word) : AccessWidth.aligned .half a = true ↔ a.toNat % 2 = 0 := by
  simp [AccessWidth.aligned, ← BitVec.toNat_inj]

/-- A general register's write that goes on changes the register and pc alone (10_state.md R22, R25). -/
theorem writeBack_writesGpr (s : State) (rd : Reg) (v : Word) : WritesGpr s rd v (writeBack s rd v) := by
  refine ⟨_, rfl, fun r => ?_, ?_⟩
  · rw [State.advancePc_x, State.setX_x]
  · simp [KeepsHiLo, KeepsCp0, KeepsMemory, KeepsPlatform, KeepsRecords]

theorem loadInto_writesGpr {s : State} {n : AccessWidth} {a : Word} (rt : Reg) (v : Word)
    (aligned : AccessWidth.aligned n a = true) (admitted : Config.admitsAccess s.cfg a n .load = true) :
    WritesGpr s rt v (loadInto s n a rt v) := by
  rw [loadInto, if_pos aligned, if_pos admitted]
  exact writeBack_writesGpr s rt v

end Sys2Proof.Machine
end

section
/-! The statements of 40_load.md. -/

namespace Sys2Proof.Proofs

open Sys2Proof.Machine Sys2Proof.Claims

/-- Settles O5: the byte at the address is its lane of the containing word. -/
theorem loadByteTakesItsLane : Obligations.LoadByteTakesItsLane := by
  intro base rt offset s admitted
  rw [← State.readByte_eq_lane]
  exact ⟨loadInto_writesGpr rt _ rfl admitted, loadInto_writesGpr rt _ rfl admitted⟩

/-- Settles O6: the halfword at an even address is its lane of the containing word. -/
theorem loadHalfTakesItsLane : Obligations.LoadHalfTakesItsLane := by
  intro base rt offset s even admitted
  have aligned := (AccessWidth.aligned_half_iff _).mpr even
  rw [← State.readHalf_eq_lane s even]
  exact ⟨loadInto_writesGpr rt _ aligned admitted, loadInto_writesGpr rt _ aligned admitted⟩

/-- Settles O7: the word at a multiple of 4 is its own containing word. -/
theorem loadWordTakesTheWord : Obligations.LoadWordTakesTheWord := by
  intro base rt offset s multiple admitted
  rw [← State.readWord_eq_containingWord s multiple]
  exact loadInto_writesGpr rt _ ((AccessWidth.aligned_word_iff _).mpr multiple) admitted

end Sys2Proof.Proofs
end

section
/-! SUPPORT. What a store that goes on changes, and that every effect but a store's keeps memory (41_store.md R110). -/

namespace Sys2Proof.Machine

open Sys2Proof.Claims

/-! ## A store that goes on (R110) -/

/-- A store touches TEXT exactly when one of its bytes lies there (20_memory.md R49). -/
theorem Config.touchesText_eq_false_iff {c : Config} {a : Word} {n : Nat} :
    Config.touchesText c a n = false ↔ ∀ k, k < n → Config.inText c (a + BitVec.ofNat 32 k) = false := by
  refine ⟨Config.touchesText_false, fun outside => ?_⟩
  induction n with
  | zero => rfl
  | succ n ih =>
    have lower := ih fun k hk => outside k (Nat.lt_succ_of_lt hk)
    have last := outside n (Nat.lt_succ_self n)
    rw [Config.touchesText, lower, last, Bool.or_self]

theorem AccessWidth.bytes_le_four (n : AccessWidth) : AccessWidth.bytes n ≤ 4 := by
  cases n <;> decide

@[simp] theorem State.writeBytes_x (s : State) (a w : Word) (n : Nat) (r : Reg) : (s.writeBytes a w n).x r = s.x r :=
  State.x_congr (State.writeBytes_regs s a w n) r
@[simp] theorem State.writeBytes_cp0Reg (s : State) (a w : Word) (n : Nat) (i : Cp0Reg) :
    (s.writeBytes a w n).cp0Reg i = s.cp0Reg i := State.cp0Reg_congr (State.writeBytes_cp0 s a w n) i

/-- Writing memory and going on changes the bytes written and pc alone. -/
theorem State.writeBytes_storesBytes (s : State) (a v : Word) {n : Nat} (hn : n ≤ 4) :
    StoresBytes s a n v (.next (s.writeBytes a v n).advancePc) := by
  refine ⟨_, rfl, fun k hk => ?_, fun c outside => ?_, ?_⟩
  · exact State.writeBytes_readByte_inside s a v hn hk
  · exact State.writeBytes_readByte_outside s a v c n outside
  · simp [KeepsGprs, KeepsHiLo, KeepsCp0, KeepsPlatform, KeepsRecords]

/-- An aligned store that the platform admits and none of whose bytes lies in TEXT completes. -/
theorem storeFrom_storesBytes {s : State} {n : AccessWidth} {a : Word} (v : Word)
    (aligned : AccessWidth.aligned n a = true)
    (outside : ∀ k, k < AccessWidth.bytes n → Config.inText s.cfg (a + BitVec.ofNat 32 k) = false)
    (admitted : Config.admitsAccess s.cfg a n .store = true) :
    StoresBytes s a (AccessWidth.bytes n) v (storeFrom s n a v) := by
  have untouched := Config.touchesText_eq_false_iff.mpr outside
  rw [storeFrom, if_pos aligned, if_neg (Bool.eq_false_iff.mp untouched), if_pos admitted]
  exact State.writeBytes_storesBytes s a v (AccessWidth.bytes_le_four n)

/-! ## All other instructions -/

@[simp] theorem State.returnFromException_mem (s : State) : s.returnFromException.mem = s.mem := rfl

/-- The one effect that writes memory is a store's. -/
theorem exec_mem_eq {i : Instr} {s t : State} (h : exec i s = .next t) (hi : i.mnemonic ∉ ["SB", "SH", "SW"]) :
    t.mem = s.mem := by
  cases effect_of_exec h with
  | stores n base rt offset _ _ _ isStore =>
    obtain ⟨-, rfl⟩ | ⟨-, rfl⟩ | ⟨-, rfl⟩ := isStore <;> simp [Instr.mnemonic] at hi
  | breaks | calls | overflows | misaligned => exact State.enterException_mem s _ _
  | writes | writesHiLo | goes | links | returns | writesCp0 => simp

end Sys2Proof.Machine
end

section
/-! The statements of 41_store.md. -/

namespace Sys2Proof.Proofs

open Sys2Proof.Machine Sys2Proof.Claims

/-- Settles O8: a byte has no alignment, and its one address is the effective address itself. -/
theorem storeByteWritesOneByte : Obligations.StoreByteWritesOneByte := by
  intro base rt offset s outside admitted
  refine storeFrom_storesBytes (n := .byte) (s.x rt) rfl (fun k hk => ?_) admitted
  obtain rfl : k = 0 := Nat.lt_one_iff.mp hk
  rwa [BitVec.add_zero]

/-- Settles O9: an even address is a halfword's alignment. -/
theorem storeHalfWritesTwoBytes : Obligations.StoreHalfWritesTwoBytes :=
  fun _ rt _ s even => storeFrom_storesBytes (s.x rt) ((AccessWidth.aligned_half_iff _).mpr even)

/-- Settles O10: a multiple of 4 is a word's alignment. -/
theorem storeWordWritesFourBytes : Obligations.StoreWordWritesFourBytes :=
  fun _ rt _ s multiple => storeFrom_storesBytes (s.x rt) ((AccessWidth.aligned_word_iff _).mpr multiple)

/-- Settles O52, by the effects an instruction can have. -/
theorem onlyStoresChangeMemory : Obligations.OnlyStoresChangeMemory :=
  fun _ _ _ executed notStore => State.readByte_congr (exec_mem_eq executed notStore)

end Sys2Proof.Proofs
end

section
/-! SUPPORT. What the values of 42_rr_arith.md are as numbers: the 33-bit intermediate and its overflow test, sums and
differences modulo 2^32, comparisons, shifts, products and quotients; and how an instruction that writes HI and LO, or
divides by zero, goes on. -/

namespace Sys2Proof.Machine

open Sys2Proof.Claims

/-! ## How an instruction of the file ends -/

/-- Writing a value back writes the value a statement names, where the two are equal. -/
theorem writeBack_writesGpr_of_eq {s : State} {rd : Reg} {v w : Word} (same : v = w) :
    WritesGpr s rd w (writeBack s rd v) :=
  same ▸ writeBack_writesGpr s rd v

theorem writeHiLo_writesHiLo (s : State) (hi lo : Word) : WritesHiLo s hi lo (writeHiLo s hi lo) := by
  refine ⟨_, rfl, ?_⟩
  simp [KeepsGprs, KeepsCp0, KeepsMemory, KeepsPlatform, KeepsRecords]

/-! ## The 33-bit intermediate (R121, R123; 60_exceptions.md R221) -/

/-- Bits 32 and 31 agree exactly where 32 signed bits hold the intermediate. -/
theorem overflows_eq_false_iff (temp : BitVec 33) : overflows temp = false ↔ FitsSigned temp.toInt := by
  have := temp.isLt
  simp only [overflows, bne_eq_false_iff_eq, BitVec.getLsbD, Nat.testBit_eq_decide_div_mod_eq, decide_eq_decide,
    FitsSigned, BitVec.toInt_eq_toNat_cond]
  omega

/-- The low 32 bits are the intermediate's value modulo 2^32. -/
theorem lowWord_eq_ofInt (temp : BitVec 33) : temp.extractLsb' 0 32 = BitVec.ofInt 32 temp.toInt :=
  calc temp.extractLsb' 0 32
    _ = temp.setWidth 32 := (BitVec.setWidth_eq_extractLsb' (by omega)).symm
    _ = temp.signExtend 32 := (BitVec.signExtend_eq_setWidth_of_le temp (by omega)).symm
    _ = BitVec.ofInt 32 temp.toInt := rfl

/-- 33 bits hold the sum of two words. -/
theorem toInt_sum33 (a b : Word) : (sum33 a b).toInt = a.toInt + b.toInt := by
  have := a.le_toInt
  have := a.toInt_lt
  have := b.le_toInt
  have := b.toInt_lt
  rw [sum33, BitVec.toInt_add, BitVec.toInt_signExtend_of_le (by omega), BitVec.toInt_signExtend_of_le (by omega)]
  exact Int.bmod_eq_of_le (by omega) (by omega)

/-- 33 bits hold the difference of two words. -/
theorem toInt_difference33 (a b : Word) : (difference33 a b).toInt = a.toInt - b.toInt := by
  have := a.le_toInt
  have := a.toInt_lt
  have := b.le_toInt
  have := b.toInt_lt
  rw [difference33, BitVec.toInt_sub, BitVec.toInt_signExtend_of_le (by omega),
    BitVec.toInt_signExtend_of_le (by omega)]
  exact Int.bmod_eq_of_le (by omega) (by omega)

section
variable {temp : BitVec 33} {n : Int}

/-- An intermediate that 32 signed bits hold is written. -/
theorem writeChecked_writesGpr (s : State) (rd : Reg) (value : temp.toInt = n) (fits : FitsSigned n) :
    WritesGpr s rd (BitVec.ofInt 32 n) (writeChecked s rd temp) := by
  subst value
  rw [writeChecked, if_neg (Bool.eq_false_iff.mp ((overflows_eq_false_iff temp).mpr fits))]
  exact writeBack_writesGpr_of_eq (lowWord_eq_ofInt temp)

/-- Any other raises IntegerOverflow, with EPC at the instruction itself. -/
theorem writeChecked_entersHandler (s : State) (rd : Reg) (value : temp.toInt = n) (tooLarge : ¬ FitsSigned n) :
    EntersHandler s .integerOverflow s.pc (writeChecked s rd temp) := by
  subst value
  rw [← overflows_eq_false_iff, Bool.not_eq_false] at tooLarge
  rw [writeChecked, if_pos tooLarge]
  exact State.enterException_entersHandler s _ _

end

/-! ## Sums and differences modulo 2^32 (R122, R124) -/

theorem add_eq_ofNat (a b : Word) : a + b = BitVec.ofNat 32 ((a.toNat + b.toNat) % 4294967296) :=
  BitVec.eq_of_toNat_eq (by rw [BitVec.toNat_add, BitVec.toNat_ofNat, Nat.mod_mod])

theorem sub_eq_ofInt (a b : Word) : a - b = BitVec.ofInt 32 ((a.toNat : Int) - b.toNat) := by
  rw [Int.sub_eq_add_neg, BitVec.ofInt_add, BitVec.ofInt_neg, BitVec.ofInt_natCast, BitVec.ofInt_natCast,
    BitVec.ofNat_toNat, BitVec.ofNat_toNat, BitVec.setWidth_eq, BitVec.setWidth_eq, BitVec.sub_eq_add_neg]

/-! ## Comparisons (R129, R130; 43_ri_arith.md R157, R158) -/

/-- A comparison's word is 1 where the comparison holds and 0 where it does not. -/
theorem truthWord_decide (p : Prop) [Decidable p] : truthWord (decide p) = if p then 1#32 else 0#32 := by
  simp [truthWord]

theorem toInt_signedImm (imm : BitVec 16) : (signedImm imm).toInt = imm.toInt :=
  BitVec.toInt_signExtend_of_le (by omega)

/-- Read as unsigned, the sign-extended immediate lies at one end or the other of the unsigned range. -/
theorem toNat_signedImm (imm : BitVec 16) :
    (signedImm imm).toNat = if imm.toNat < 0x8000 then imm.toNat else imm.toNat + 0xFFFF0000 := by
  have fits : imm.toNat % 2 ^ 32 = imm.toNat := Nat.mod_eq_of_lt (imm.isLt.trans (by decide))
  rw [signedImm, BitVec.toNat_signExtend, BitVec.msb_eq_decide, BitVec.toNat_setWidth, fits]
  by_cases positive : imm.toNat < 0x8000
  · simp [positive]
  · simp [positive, not_lt.mp positive]

/-! ## Shifts (R131 to R136; 30_encoding.md R69) -/

theorem shiftLeft_eq_ofNat (a : Word) (n : Nat) : a <<< n = BitVec.ofNat 32 (a.toNat * 2 ^ n) := by
  rw [← Nat.shiftLeft_eq]
  rfl

theorem ushiftRight_eq_ofNat (a : Word) (n : Nat) : a >>> n = BitVec.ofNat 32 (a.toNat / 2 ^ n) := by
  have small : a.toNat / 2 ^ n < 2 ^ 32 := (Nat.div_le_self _ _).trans_lt a.isLt
  apply BitVec.eq_of_toNat_eq
  rw [BitVec.toNat_ushiftRight, BitVec.toNat_ofNat, Nat.mod_eq_of_lt small, Nat.shiftRight_eq_div_pow]

theorem sshiftRight_eq_ofInt (a : Word) (n : Nat) : a.sshiftRight n = BitVec.ofInt 32 (a.toInt / 2 ^ n) := by
  rw [BitVec.sshiftRight, Int.shiftRight_eq_div_pow, Nat.cast_pow, Nat.cast_ofNat]

theorem variableAmount_eq_mod (s : State) (rs : Reg) : variableAmount s rs = (s.x rs).toNat % 32 :=
  BitVec.extractLsb'_toNat ..

/-! ## Products (R125, R126) -/

/-- HI followed by LO is the product written. -/
theorem writeProduct_writesHiLo (s : State) (prod : BitVec 64) :
    ∃ hi lo, WritesHiLo s hi lo (writeProduct s prod) ∧ hi ++ lo = prod :=
  ⟨_, _, writeHiLo_writesHiLo s _ _,
    (BitVec.extractLsb'_append_extractLsb'_eq_extractLsb' (by omega)).trans BitVec.extractLsb'_eq_self⟩

/-- 64 bits hold the signed product of two words. -/
theorem toInt_ofInt_mul (a b : Word) : (BitVec.ofInt 64 (a.toInt * b.toInt)).toInt = a.toInt * b.toInt := by
  have lower : -2 ^ 62 ≤ a.toInt * b.toInt := BitVec.le_toInt_mul_toInt
  have upper : a.toInt * b.toInt ≤ 2 ^ 62 := BitVec.toInt_mul_toInt_le
  exact BitVec.toInt_ofInt_eq_self (by omega) (by omega) (by omega)

/-- 64 bits hold the unsigned product of two words. -/
theorem toNat_ofNat_mul (a b : Word) : (BitVec.ofNat 64 (a.toNat * b.toNat)).toNat = a.toNat * b.toNat :=
  have small : a.toNat * b.toNat < 2 ^ 32 * 2 ^ 32 := Nat.mul_lt_mul'' a.isLt b.isLt
  Nat.mod_eq_of_lt small

/-! ## Quotients and remainders (R127, R128; 92_eei_decisions.md D6, D7) -/

theorem exec_div_of_ne_zero {s : State} {rs rt : Reg} (nonzero : s.x rt ≠ 0#32) :
    exec (.div rs rt) s = writeHiLo s ((s.x rs).srem (s.x rt)) ((s.x rs).sdiv (s.x rt)) := by
  have quotient : BitVec.ofInt 32 ((s.x rs).toInt.tdiv (s.x rt).toInt) = (s.x rs).sdiv (s.x rt) :=
    BitVec.toInt_inj.mp ((BitVec.toInt_ofInt _).trans (BitVec.toInt_sdiv _ _).symm)
  have remainder : BitVec.ofInt 32 ((s.x rs).toInt.tmod (s.x rt).toInt) = (s.x rs).srem (s.x rt) := by
    rw [← BitVec.toInt_srem, BitVec.ofInt_toInt]
  rw [← quotient, ← remainder]
  exact if_neg nonzero

theorem exec_divu_of_ne_zero {s : State} {rs rt : Reg} (nonzero : s.x rt ≠ 0#32) :
    exec (.divu rs rt) s = writeHiLo s ((s.x rs) % (s.x rt)) ((s.x rs) / (s.x rt)) := by
  have quotient : BitVec.ofNat 32 ((s.x rs).toNat / (s.x rt).toNat) = (s.x rs) / (s.x rt) := by
    rw [← BitVec.toNat_udiv, BitVec.ofNat_toNat, BitVec.setWidth_eq]
  have remainder : BitVec.ofNat 32 ((s.x rs).toNat % (s.x rt).toNat) = (s.x rs) % (s.x rt) := by
    rw [← BitVec.toNat_umod, BitVec.ofNat_toNat, BitVec.setWidth_eq]
  rw [← quotient, ← remainder]
  exact if_neg nonzero

/-- All but the quotient of -2^31 by -1 is what the truncated quotient and its remainder are as integers. -/
theorem sdiv_mul_add_srem {a b : Word} (h : ¬ (a = 0x80000000#32 ∧ b = 0xFFFFFFFF#32)) :
    (a.sdiv b).toInt * b.toInt + (a.srem b).toInt = a.toInt := by
  rw [BitVec.toInt_sdiv_of_ne_or_ne a b (not_and_or.mp h), BitVec.toInt_srem, Int.tdiv_mul_add_tmod]

theorem natAbs_srem_lt (a : Word) {b : Word} (nonzero : b ≠ 0#32) :
    (a.srem b).toInt.natAbs < b.toInt.natAbs := by
  rw [BitVec.toInt_srem, Int.natAbs_tmod]
  exact Nat.mod_lt _ (Int.natAbs_pos.mpr fun h => nonzero (BitVec.toInt_inj.mp h))

/-- A negative remainder has the dividend's sign (D6). -/
theorem dividend_neg_of_srem_neg {a b : Word} (negative : (a.srem b).toInt < 0) : a.toInt < 0 := by
  rw [BitVec.toInt_srem] at negative
  exact lt_of_not_ge fun h => absurd (Int.tmod_nonneg b.toInt h) (not_le.mpr negative)

/-- So has a positive one: negating the dividend negates the remainder. -/
theorem dividend_pos_of_srem_pos {a b : Word} (positive : 0 < (a.srem b).toInt) : 0 < a.toInt := by
  rw [BitVec.toInt_srem] at positive
  by_contra nonpos
  have opposite : 0 ≤ (-a.toInt).tmod b.toInt := Int.tmod_nonneg _ (by omega)
  rw [Int.neg_tmod] at opposite
  omega

/-! ## Division by zero (R127, R128; 93_implementation_defined.md U1, U2) -/

theorem exec_of_divisor_zero {s : State} {rs rt : Reg} (zero : s.x rt = 0#32) {i : Instr} {signed : Bool}
    (hi : (i = .div rs rt ∧ signed = true) ∨ (i = .divu rs rt ∧ signed = false)) :
    exec i s = divideByZero s (s.x rs) 0#32 signed := by
  rw [← zero]
  obtain ⟨rfl, rfl⟩ | ⟨rfl, rfl⟩ := hi
  · exact if_pos zero
  · exact if_pos zero

/-- Every function of the operands and the signedness is some platform's DIV0 (00_scope.md R7). -/
theorem exists_div0_of_function (f : Word → Word → Bool → Word × Word) :
    ∃ d : Div0, ∀ c a b signed drawn, c.div0 = d → Config.div0Pair c a b signed drawn = f a b signed := by
  obtain ⟨signedHi, signedHi_eval⟩ := Div0Source.exists_eval fun a b _ => (f a b true).1
  obtain ⟨signedLo, signedLo_eval⟩ := Div0Source.exists_eval fun a b _ => (f a b true).2
  obtain ⟨unsignedHi, unsignedHi_eval⟩ := Div0Source.exists_eval fun a b _ => (f a b false).1
  obtain ⟨unsignedLo, unsignedLo_eval⟩ := Div0Source.exists_eval fun a b _ => (f a b false).2
  refine ⟨{ signedHi, signedLo, unsignedHi, unsignedLo }, fun c a b signed drawn hc => ?_⟩
  cases signed with
  | true => simp [Config.div0Pair, hc, signedHi_eval, signedLo_eval]
  | false => simp [Config.div0Pair, hc, unsignedHi_eval, unsignedLo_eval]

end Sys2Proof.Machine
end

section
/-! The statements of 42_rr_arith.md, with those of 43_ri_arith.md that stand in one statement with them. -/

namespace Sys2Proof.Proofs

open Sys2Proof.Machine Sys2Proof.Claims

/-- Settles O14: the 33-bit intermediate is the sum, and its overflow test is the range of 32 signed bits. -/
theorem addWritesTheSumOrOverflows : Obligations.AddWritesTheSumOrOverflows :=
  fun _ _ rd s => ⟨writeChecked_writesGpr s rd (toInt_sum33 _ _), writeChecked_entersHandler s rd (toInt_sum33 _ _)⟩

/-- Settles O15: as O14, the 33-bit intermediate being the difference. -/
theorem subWritesTheDifferenceOrOverflows : Obligations.SubWritesTheDifferenceOrOverflows :=
  fun _ _ rd s => ⟨writeChecked_writesGpr s rd (toInt_difference33 _ _),
    writeChecked_entersHandler s rd (toInt_difference33 _ _)⟩

/-- Settles O18: ADDU and SUBU are the bit-vector sum and difference, ADDIU forms the sum of an effective address. -/
theorem uncheckedArithmeticWraps : Obligations.UncheckedArithmeticWraps :=
  ⟨fun _ _ _ _ => writeBack_writesGpr_of_eq (add_eq_ofNat _ _),
    fun _ _ _ _ => writeBack_writesGpr_of_eq (sub_eq_ofInt _ _),
    fun rs _ imm s => writeBack_writesGpr_of_eq (effectiveAddress_eq_ofInt s rs imm)⟩

/-- Settles O21, by the signed and the unsigned value of the sign-extended immediate. -/
theorem setLessComparesAsNamed : Obligations.SetLessComparesAsNamed := by
  refine ⟨fun rs rt rd s => ⟨?_, ?_⟩, fun rs rt imm s => ?_⟩
  · exact writeBack_writesGpr_of_eq (truthWord_decide _)
  · exact writeBack_writesGpr_of_eq (truthWord_decide _)
  · rw [← toInt_signedImm, ← toNat_signedImm]
    exact ⟨writeBack_writesGpr_of_eq (truthWord_decide _), writeBack_writesGpr_of_eq (truthWord_decide _)⟩

/-- Settles O22, by the three shifts as arithmetic. -/
theorem fieldShiftsAreMultiplyAndDivide : Obligations.FieldShiftsAreMultiplyAndDivide :=
  fun _ _ _ _ => ⟨writeBack_writesGpr_of_eq (shiftLeft_eq_ofNat _ _),
    writeBack_writesGpr_of_eq (ushiftRight_eq_ofNat _ _), writeBack_writesGpr_of_eq (sshiftRight_eq_ofInt _ _)⟩

/-- Settles O23: the five low bits of the amount's register are its value modulo 32. -/
theorem registerShiftsTakeTheAmountModulo32 : Obligations.RegisterShiftsTakeTheAmountModulo32 := by
  intro rs rt rd s
  rw [← variableAmount_eq_mod]
  exact ⟨writeBack_writesGpr_of_eq (shiftLeft_eq_ofNat _ _), writeBack_writesGpr_of_eq (ushiftRight_eq_ofNat _ _),
    writeBack_writesGpr_of_eq (sshiftRight_eq_ofInt _ _)⟩

/-- Settles O24: 64 bits hold either product, and HI and LO are its halves. -/
theorem multiplyIsExact : Obligations.MultiplyIsExact := by
  refine fun rs rt s => ⟨?_, ?_⟩
  · obtain ⟨hi, lo, written, product⟩ :=
      writeProduct_writesHiLo s (BitVec.ofInt 64 ((s.x rs).toInt * (s.x rt).toInt))
    exact ⟨hi, lo, written, product ▸ toInt_ofInt_mul _ _⟩
  · obtain ⟨hi, lo, written, product⟩ :=
      writeProduct_writesHiLo s (BitVec.ofNat 64 ((s.x rs).toNat * (s.x rt).toNat))
    exact ⟨hi, lo, written, product ▸ toNat_ofNat_mul _ _⟩

/-- Settles O25: the quotient of -2^31 by -1 is computed, and every other one is the truncated quotient itself. -/
theorem signedDivisionTruncates : Obligations.SignedDivisionTruncates := by
  intro rs rt s nonzero
  refine ⟨_, _, exec_div_of_ne_zero nonzero ▸ writeHiLo_writesHiLo s _ _, ?_⟩
  split
  next lowest =>
    obtain ⟨dividend, divisor⟩ := lowest
    rw [dividend, divisor]
    exact ⟨by decide, by decide⟩
  next other =>
    exact ⟨sdiv_mul_add_srem other, natAbs_srem_lt _ nonzero, dividend_pos_of_srem_pos, dividend_neg_of_srem_neg⟩

/-- Settles O26, by division with remainder of natural numbers. -/
theorem unsignedDivisionRoundsDown : Obligations.UnsignedDivisionRoundsDown := by
  intro rs rt s nonzero
  refine ⟨_, _, exec_divu_of_ne_zero nonzero ▸ writeHiLo_writesHiLo s _ _, ?_, ?_⟩
  · rw [BitVec.toNat_udiv, BitVec.toNat_umod, Nat.div_add_mod']
  · rw [BitVec.toNat_umod]
    exact Nat.mod_lt _ (Nat.pos_of_ne_zero fun h => nonzero (BitVec.eq_of_toNat_eq h))

/-- Settles O27: the effect of a division by zero, DIV0's default, and a term for each half of a given DIV0. -/
theorem divisionByZeroCompletes : Obligations.DivisionByZeroCompletes := by
  refine ⟨fun rs rt s zero i signed hi => ?_, fun c a b signed drawn fixesNothing => ?_, exists_div0_of_function⟩
  · rw [exec_of_divisor_zero zero hi, divideByZero_eq]
    refine ⟨_, rfl, ?_⟩
    simp [State.div0Values, KeepsGprs, KeepsCp0, KeepsMemory, KeepsPlatform]
  · exact Config.div0Pair_draw fixesNothing a b signed drawn

/-- Settles O19: the bits of a bitwise operation are the operations on the bits. -/
theorem logicWorksBitByBit : Obligations.LogicWorksBitByBit := by
  refine fun rs rt rd s => ⟨⟨_, writeBack_writesGpr s rd _, fun k _ => BitVec.getLsbD_and⟩,
    ⟨_, writeBack_writesGpr s rd _, fun k _ => BitVec.getLsbD_or⟩,
    ⟨_, writeBack_writesGpr s rd _, fun k _ => BitVec.getLsbD_xor⟩,
    ⟨_, writeBack_writesGpr s rd _, fun k hk => ?_⟩⟩
  rw [BitVec.getLsbD_not, BitVec.getLsbD_or, decide_eq_true hk, Bool.true_and]

end Sys2Proof.Proofs
end

section
/-! SUPPORT. The two unsigned readings of a 16-bit immediate in 43_ri_arith.md: zero-extended by ANDI, ORI and XORI, in
the upper half by LUI; and the sum of a register and the sign-extended immediate in ADDI's 33-bit intermediate. -/

namespace Sys2Proof.Machine

/-! ## The intermediate of ADDI (R151) -/

theorem toInt_sum33_signedImm (a : Word) (imm : BitVec 16) : (sum33 a (signedImm imm)).toInt = a.toInt + imm.toInt := by
  rw [toInt_sum33, toInt_signedImm]

/-! ## The zero-extended immediate (R153 to R155; 30_encoding.md R64) -/

/-- Below bit 16 the immediate's own bits, above it zeros. -/
theorem getLsbD_zeroImm (imm : BitVec 16) {k : Nat} (hk : k < 32) :
    (zeroImm imm).getLsbD k = (decide (k < 16) && imm.getLsbD k) := by
  rw [zeroImm, BitVec.zeroExtend, BitVec.getLsbD_setWidth, decide_eq_true hk, Bool.true_and]
  by_cases low : k < 16
  · rw [decide_eq_true low, Bool.true_and]
  · rw [decide_eq_false low, Bool.false_and, BitVec.getLsbD_of_ge imm k (not_lt.mp low)]

/-! ## The immediate in the upper half (R156; 30_encoding.md R65) -/

theorem upperImm_eq_ofNat (imm : BitVec 16) : upperImm imm = BitVec.ofNat 32 (imm.toNat * 65536) := by
  have small : imm.toNat * 65536 < 2 ^ 32 := by omega
  apply BitVec.eq_of_toNat_eq
  rw [upperImm, BitVec.toNat_append, BitVec.toNat_ofNat, BitVec.toNat_ofNat, Nat.zero_mod, Nat.or_zero, Nat.shiftLeft_eq,
    Nat.mod_eq_of_lt small]

end Sys2Proof.Machine
end

section
/-! The statements of 43_ri_arith.md that stand alone. -/

namespace Sys2Proof.Proofs

open Sys2Proof.Machine Sys2Proof.Claims

/-- Settles O16: as O14, the intermediate being the sum with the signed immediate. -/
theorem addiWritesTheSumOrOverflows : Obligations.AddiWritesTheSumOrOverflows :=
  fun _ rt _ s => ⟨writeChecked_writesGpr s rt (toInt_sum33_signedImm _ _),
    writeChecked_entersHandler s rt (toInt_sum33_signedImm _ _)⟩

/-- Settles O20: a bitwise operation's bits with those of the zero-extended immediate, and the upper half's value. -/
theorem immediateLogicExtendsWithZeros : Obligations.ImmediateLogicExtendsWithZeros := by
  refine ⟨fun rs rt imm s => ⟨⟨_, writeBack_writesGpr s rt _, fun k hk => ?andi⟩,
    ⟨_, writeBack_writesGpr s rt _, fun k hk => ?ori⟩, ⟨_, writeBack_writesGpr s rt _, fun k hk => ?xori⟩⟩,
    fun _ imm _ => writeBack_writesGpr_of_eq (upperImm_eq_ofNat imm)⟩
  case andi => rw [BitVec.getLsbD_and, getLsbD_zeroImm imm hk, Bool.and_left_comm, Bool.and_assoc]
  case ori => rw [BitVec.getLsbD_or, getLsbD_zeroImm imm hk]
  case xori => rw [BitVec.getLsbD_xor, getLsbD_zeroImm imm hk]

end Sys2Proof.Proofs
end

section
/-! SUPPORT. Where a branch of 44_branch.md goes and what it leaves alone (R170, R171), and the sign conditions that the
model reads off bit 31 as conditions on the signed value (R176, R177). -/

namespace Sys2Proof.Machine

open Sys2Proof.Claims

/-! ## Control goes there at once (R171; 92_eei_decisions.md D2) -/

/-- Setting pc changes nothing else. -/
theorem State.setPc_goesTo (s : State) (target : Word) : GoesTo s target (.next (s.setPc target)) :=
  ⟨_, rfl, rfl, fun _ => rfl, ⟨rfl, rfl⟩, fun _ => rfl, fun _ => rfl, ⟨rfl, rfl, rfl⟩, ⟨rfl, rfl⟩⟩

/-- A branch whose test decides `P` counts `offset` instructions from the next one where `P` holds, and goes on there
where it does not. -/
theorem branchIf_goesTo (s : State) (offset : BitVec 16) {taken : Bool} {P : Prop} [Decidable P]
    (decides : taken = true ↔ P) :
    GoesTo s (if P then s.pc + 4#32 + BitVec.ofInt 32 (4 * offset.toInt) else s.pc + 4#32)
      (branchIf s taken (branchTarget s offset)) := by
  rw [branchIf, branchTarget, signExtend_append_zeros]
  by_cases holds : P
  · rw [if_pos (decides.mpr holds), if_pos holds]
    exact s.setPc_goesTo _
  · rw [if_neg (mt decides.mp holds), if_neg holds]
    exact s.setPc_goesTo _

/-! ## Bit 31 is the sign (R176, R177) -/

theorem msb_iff_toInt_neg (a : Word) : a.msb = true ↔ a.toInt < 0 := by
  rw [BitVec.msb_eq_toInt, decide_eq_true_iff]

theorem not_msb_iff_toInt_nonneg (a : Word) : (!a.msb) = true ↔ 0 ≤ a.toInt := by
  rw [Bool.not_eq_true', ← Bool.not_eq_true, msb_iff_toInt_neg, not_lt]

end Sys2Proof.Machine
end

section
/-! The statements of 44_branch.md. -/

namespace Sys2Proof.Proofs

open Sys2Proof.Machine Sys2Proof.Claims

/-- Settles O29: BEQ branches on equality, and BNE on its negation, which exchanges the two places. -/
theorem equalityBranchesGoAtOnce : Obligations.EqualityBranchesGoAtOnce := by
  refine fun rs rt offset s => ⟨branchIf_goesTo s offset beq_iff_eq, ?_⟩
  rw [← ite_not]
  exact branchIf_goesTo s offset bne_iff_ne

/-- Settles O30: BLEZ and BGTZ compare the signed value with 0, BLTZ and BGEZ look at its sign bit. -/
theorem signBranchesTestTheSignedValue : Obligations.SignBranchesTestTheSignedValue :=
  fun rs offset s => ⟨branchIf_goesTo s offset decide_eq_true_iff, branchIf_goesTo s offset decide_eq_true_iff,
    branchIf_goesTo s offset (msb_iff_toInt_neg (s.x rs)), branchIf_goesTo s offset (not_msb_iff_toInt_nonneg (s.x rs))⟩

end Sys2Proof.Proofs
end

section
/-! SUPPORT. What a jump of 45_jump.md that links leaves behind (R182, R183). -/

namespace Sys2Proof.Machine

open Sys2Proof.Claims

/-- Writing a register and going to a target changes nothing else. -/
theorem State.setX_setPc_keeps (s : State) (rd : Reg) (v target : Word) :
    KeepsHiLo s ((s.setX rd v).setPc target) ∧ KeepsCp0 s ((s.setX rd v).setPc target) ∧
      KeepsMemory s ((s.setX rd v).setPc target) ∧ KeepsPlatform s ((s.setX rd v).setPc target) ∧
      KeepsRecords s ((s.setX rd v).setPc target) := by
  simp [KeepsHiLo, KeepsCp0, KeepsMemory, KeepsPlatform, KeepsRecords]

/-- Where the destination is not register 0, nothing is discarded. -/
theorem State.setX_x_of_ne_zero (s : State) {rd : Reg} (nonzero : rd ≠ 0#5) (v : Word) (r : Reg) :
    (s.setX rd v).x r = if r = rd then v else s.x r := by
  rw [State.setX_x]
  by_cases zero : r = 0#5
  · rw [zero, if_pos rfl, if_neg nonzero.symm, State.x_zero]
  · rw [if_neg zero]

end Sys2Proof.Machine
end

section
/-! The statement of 45_jump.md. -/

namespace Sys2Proof.Proofs

open Sys2Proof.Machine Sys2Proof.Claims

/-- Settles O32: J and JR set pc; JAL and JALR set it after the link, and JALR's target is read in the state before it. -/
theorem jumpsLinkTheNextInstruction : Obligations.JumpsLinkTheNextInstruction :=
  ⟨fun _ s => s.setPc_goesTo _, fun _ s => s.setPc_goesTo _,
    fun _ s => ⟨_, rfl, rfl, s.setX_x_of_ne_zero (by decide) _, s.setX_setPc_keeps _ _ _⟩,
    fun _ rd s => ⟨_, rfl, rfl, s.setX_x rd _, s.setX_setPc_keeps _ _ _⟩⟩

end Sys2Proof.Proofs
end


section
/-! SUPPORT. MTHI and MTLO of 46_transfer.md as writes of the pair HI and LO (R193, R194): the half not named gets the
value it has. -/

namespace Sys2Proof.Machine

theorem exec_mthi_eq_writeHiLo (rs : Reg) (s : State) : exec (.mthi rs) s = writeHiLo s (s.x rs) s.lo := rfl

theorem exec_mtlo_eq_writeHiLo (rs : Reg) (s : State) : exec (.mtlo rs) s = writeHiLo s s.hi (s.x rs) := rfl

end Sys2Proof.Machine
end

section
/-! The statement of 46_transfer.md. -/

namespace Sys2Proof.Proofs

open Sys2Proof.Machine Sys2Proof.Claims

/-- Settles O33: MFHI and MFLO write a general register back, MTHI and MTLO write the pair HI and LO. -/
theorem transfersCopyHiAndLo : Obligations.TransfersCopyHiAndLo := by
  refine ⟨fun rd s => writeBack_writesGpr s rd s.hi, fun rd s => writeBack_writesGpr s rd s.lo,
    fun rs s => ?mthi, fun rs s => ?mtlo⟩
  case mthi =>
    rw [exec_mthi_eq_writeHiLo]
    exact writeHiLo_writesHiLo s _ _
  case mtlo =>
    rw [exec_mtlo_eq_writeHiLo]
    exact writeHiLo_writesHiLo s _ _

end Sys2Proof.Proofs
end

section
/-! SUPPORT. What MTC0 and ERET of 47_privileged.md leave behind (R201, R203; 60_exceptions.md R235). -/

namespace Sys2Proof.Machine

open Sys2Proof.Claims

/-- EPC has no storage of its own: a write of its CP0 register writes it (10_state.md R29). -/
theorem State.setCp0Reg_epc (s : State) (i : Cp0Reg) (v : Word) :
    (s.setCp0Reg i v).epc = if s.cfg.epcIndex = i then v else s.epc :=
  State.setCp0Reg_cp0Reg s i s.cfg.epcIndex v

/-- Writing a CP0 register and going on changes nothing outside the CP0 file and pc. -/
theorem State.setCp0Reg_advancePc_keeps (s : State) (i : Cp0Reg) (v : Word) :
    KeepsGprs s (s.setCp0Reg i v).advancePc ∧ KeepsHiLo s (s.setCp0Reg i v).advancePc ∧
      KeepsMemory s (s.setCp0Reg i v).advancePc ∧ KeepsPlatform s (s.setCp0Reg i v).advancePc ∧
      KeepsRecords s (s.setCp0Reg i v).advancePc := by
  simp [KeepsGprs, KeepsHiLo, KeepsMemory, KeepsPlatform, KeepsRecords]

/-! ## ERET -/

@[simp] theorem State.returnFromException_pc (s : State) : s.returnFromException.pc = s.epc := rfl
@[simp] theorem State.returnFromException_cfg (s : State) : s.returnFromException.cfg = s.cfg := rfl
@[simp] theorem State.returnFromException_irq (s : State) : s.returnFromException.irq = s.irq := rfl
@[simp] theorem State.returnFromException_lastException (s : State) :
    s.returnFromException.lastException = s.lastException := rfl
@[simp] theorem State.returnFromException_faultRecord (s : State) :
    s.returnFromException.faultRecord = s.faultRecord := rfl
@[simp] theorem State.returnFromException_x (s : State) (r : Reg) : s.returnFromException.x r = s.x r := rfl
@[simp] theorem State.returnFromException_readByte (s : State) (a : Word) :
    s.returnFromException.readByte a = s.readByte a := rfl

/-- What ERET leaves in each CP0 register. -/
theorem State.returnFromException_cp0Reg (s : State) (i : Cp0Reg) :
    s.returnFromException.cp0Reg i =
      if i = s.cfg.epcIndex then s.cp0Reg i else Config.cp0After s.cfg .eret i s.cp0 (s.cp0Draws .eret) :=
  State.cp0Processing_cp0Reg (s.setPc s.epc) .eret i

@[simp] theorem State.returnFromException_epc (s : State) : s.returnFromException.epc = s.epc :=
  State.cp0Processing_epc (s.setPc s.epc) .eret

/-- ERET restores nothing (R235). -/
theorem State.returnFromException_keeps (s : State) :
    KeepsGprs s s.returnFromException ∧ KeepsHiLo s s.returnFromException ∧ KeepsMemory s s.returnFromException ∧
      KeepsPlatform s s.returnFromException := by
  simp [KeepsGprs, KeepsHiLo, KeepsMemory, KeepsPlatform]

end Sys2Proof.Machine
end

section
/-! The statements of 47_privileged.md. -/

namespace Sys2Proof.Proofs

open Sys2Proof.Machine Sys2Proof.Claims

/-- Settles O34: MFC0 writes a general register back, MTC0 writes one register of the CP0 file. -/
theorem cp0MovesCopyWholeRegisters : Obligations.Cp0MovesCopyWholeRegisters :=
  ⟨fun rt rd s => writeBack_writesGpr s rt (s.cp0Reg rd),
    fun rt rd s => ⟨_, rfl, rfl, fun i => s.setCp0Reg_cp0Reg rd i (s.x rt), s.setCp0Reg_epc rd (s.x rt),
      s.setCp0Reg_advancePc_keeps rd (s.x rt)⟩⟩

/-- Settles O35: ERET is the return from an exception; MFC0 with JR goes through a general register, which no CP0
register is. -/
theorem eretReturnsToEpc : Obligations.EretReturnsToEpc := by
  refine ⟨fun s => ⟨_, rfl, rfl, s.returnFromException_epc, fun i other => ?processed, ?restored⟩,
    fun s r nonzero => ⟨_, _, rfl, rfl, ?reached, ?unprocessed⟩⟩
  case processed =>
    rw [State.returnFromException_cp0Reg, if_neg other]
    rfl
  case restored =>
    obtain ⟨gprs, hiLo, memory, platform⟩ := s.returnFromException_keeps
    exact ⟨gprs, hiLo, memory, platform, rfl⟩
  case reached =>
    rw [State.setPc_pc, State.advancePc_x, State.setX_x_of_ne_zero s nonzero, if_pos rfl]
    rfl
  case unprocessed =>
    intro i
    rw [State.setPc_cp0Reg, State.advancePc_cp0Reg, State.setX_cp0Reg]

end Sys2Proof.Proofs
end

section
/-! SUPPORT. Which instruction raises which exception, and what then happens (48_trap.md R211, R212; 60_exceptions.md
R221 to R228): the conditions said once, so that every statement about a raised exception is one about
`State.enterException`. -/

namespace Sys2Proof.Machine

open Sys2Proof.Claims

/-! ## Taking an exception and returning from it (R226, R227, R235) -/

theorem State.enterException_keeps (s : State) (k : ExcKind) (v : Word) :
    KeepsGprs s (s.enterException k v) ∧ KeepsHiLo s (s.enterException k v) ∧ KeepsMemory s (s.enterException k v) := by
  simp [KeepsGprs, KeepsHiLo, KeepsMemory]

/-- Entry leaves in the CP0 registers other than EPC what CP0_EFFECT gives for the event. -/
theorem State.enterException_cp0Reg_other (s : State) (k : ExcKind) (v : Word) {j : Cp0Reg}
    (other : j ≠ s.cfg.epcIndex) :
    (s.enterException k v).cp0Reg j =
      Config.cp0After s.cfg (.entry k) j s.cp0 fun l => Config.cp0Effect (.entry k) l s.cp0 s.draws := by
  rw [State.enterException_cp0Reg, if_neg other]
  rfl

/-- ERET with EPC as entry left it goes to the address saved, with all but pc and CP0 as before the entry. -/
theorem eret_after_enterException (s : State) (k : ExcKind) (v : Word) :
    ∃ u, exec .eret (s.enterException k v) = .next u ∧ u.pc = v ∧ KeepsGprs s u ∧ KeepsHiLo s u ∧ KeepsMemory s u := by
  refine ⟨_, rfl, ?_⟩
  simp [KeepsGprs, KeepsHiLo, KeepsMemory]

/-! ## What raises (R221 to R223) -/

/-- The instructions that test for overflow, each with the 33-bit intermediate it tests (R221). -/
inductive ChecksOverflow (s : State) : Instr → BitVec 33 → Prop
  | add (rs rt rd : Reg) : ChecksOverflow s (.add rs rt rd) (sum33 (s.x rs) (s.x rt))
  | sub (rs rt rd : Reg) : ChecksOverflow s (.sub rs rt rd) (difference33 (s.x rs) (s.x rt))
  | addi (rs rt : Reg) (imm : BitVec 16) : ChecksOverflow s (.addi rs rt imm) (sum33 (s.x rs) (signedImm imm))

/-- The conditions under which executing an instruction raises an exception of a kind. -/
inductive RaiseCondition (s : State) : Instr → ExcKind → Prop
  | overflow {i : Instr} {temp : BitVec 33} (tested : ChecksOverflow s i temp) (differ : overflows temp = true) :
      RaiseCondition s i .integerOverflow
  | misaligned {base rt : Reg} {offset : BitVec 16} {i : Instr} {n : AccessWidth} {access : DataAccess}
      (hi : RequiresAlignment base rt offset i n access)
      (misaligned : AccessWidth.aligned n (effectiveAddress s base offset) = false) :
      RaiseCondition s i (.addressError (effectiveAddress s base offset) access)
  | brk (code : BitVec 20) : RaiseCondition s (.brk code) .breakpoint
  | syscall (code : BitVec 20) : RaiseCondition s (.syscall code) .systemCall

/-- What EPC takes when an instruction raises (R228; 92_eei_decisions.md D26). -/
def State.savedPc (s : State) (k : ExcKind) : Word :=
  match k with
  | .breakpoint | .systemCall => s.pc + 4#32
  | .integerOverflow | .addressError .. | .interrupt => s.pc

theorem State.savedPc_eq_ite (s : State) (k : ExcKind) :
    s.savedPc k = if k = .breakpoint ∨ k = .systemCall then s.pc + 4#32 else s.pc := by
  cases k <;> simp [State.savedPc]

/-- Where its condition holds, an instruction enters the handler and does nothing else. -/
theorem exec_of_raiseCondition {s : State} {i : Instr} {k : ExcKind} (h : RaiseCondition s i k) :
    exec i s = .next (s.enterException k (s.savedPc k)) := by
  cases h with
  | overflow tested differ =>
    cases tested with
    | add | sub | addi => exact if_pos differ
  | misaligned hi misaligned => exact exec_of_misaligned hi misaligned
  | brk | syscall => rfl

/-- The conditions do not read the last-exception record. -/
theorem RaiseCondition.forgetException {s : State} {i : Instr} {k : ExcKind} (h : RaiseCondition s i k) :
    RaiseCondition (forgetException s) i k := by
  cases h with
  | overflow tested differ =>
    cases tested with
    | add rs rt rd => exact .overflow (.add rs rt rd) differ
    | sub rs rt rd => exact .overflow (.sub rs rt rd) differ
    | addi rs rt imm => exact .overflow (.addi rs rt imm) differ
  | misaligned hi misaligned => exact .misaligned (s := Claims.forgetException s) hi misaligned
  | brk code => exact .brk code
  | syscall code => exact .syscall code

/-- An instruction that writes the last-exception record was at its condition, and recorded its kind and address. -/
theorem raiseCondition_of_recorded {i : Instr} {s t : State} {r : ExcRecord}
    (executed : exec i (forgetException s) = .next t) (recorded : t.lastException = some r) :
    r.pc = s.pc ∧ RaiseCondition s i r.kind := by
  cases effect_of_exec executed with
  | breaks code isBreak =>
    cases recorded
    subst isBreak
    exact ⟨rfl, .brk code⟩
  | calls code isSyscall =>
    cases recorded
    subst isSyscall
    exact ⟨rfl, .syscall code⟩
  | overflows hi =>
    cases recorded
    obtain ⟨rs, rt, rd, rfl, differ⟩ | ⟨rs, rt, rd, rfl, differ⟩ | ⟨rs, rt, imm, rfl, differ⟩ := hi
    · exact ⟨rfl, .overflow (.add rs rt rd) differ⟩
    · exact ⟨rfl, .overflow (.sub rs rt rd) differ⟩
    · exact ⟨rfl, .overflow (.addi rs rt imm) differ⟩
  | misaligned n base rt offset access =>
    cases recorded
    obtain ⟨_, _, _, _, hi, misaligned, same⟩ := (raises_addressError_iff i s _ access).mp ⟨_, executed, rfl⟩
    exact ⟨rfl, same ▸ .misaligned hi misaligned⟩
  | writes | writesHiLo | stores | goes | links | returns | writesCp0 => simp [forgetException] at recorded

theorem raises_iff_raiseCondition (i : Instr) (s : State) (k : ExcKind) : Raises i s k ↔ RaiseCondition s i k := by
  constructor
  · rintro ⟨t, executed, recorded⟩
    exact (raiseCondition_of_recorded executed recorded).2
  · intro condition
    exact ⟨_, exec_of_raiseCondition condition.forgetException, State.enterException_lastException _ _ _⟩

/-- What raising an exception is. -/
theorem exec_of_raises {i : Instr} {s : State} {k : ExcKind} (h : Raises i s k) :
    exec i s = .next (s.enterException k (s.savedPc k)) :=
  exec_of_raiseCondition ((raises_iff_raiseCondition i s k).mp h)

/-- Extending the immediate to 32 bits first makes no difference in 33 (30_encoding.md R63). -/
theorem signExtend_signedImm (imm : BitVec 16) : (signedImm imm).signExtend 33 = imm.signExtend 33 :=
  congrArg (BitVec.ofInt 33) (toInt_signedImm imm)

theorem overflows_iff_bits_differ (temp : BitVec 33) : overflows temp = true ↔ temp.getLsbD 32 ≠ temp.getLsbD 31 :=
  bne_iff_ne

end Sys2Proof.Machine
end

section
/-! The statements of 48_trap.md. -/

namespace Sys2Proof.Proofs

open Sys2Proof.Machine Sys2Proof.Claims

/-- Settles O37: a trap is an entry of the handler alone. -/
theorem trapsEnterTheHandler : Obligations.TrapsEnterTheHandler :=
  fun _ s => ⟨s.enterException_entersHandler .breakpoint _, s.enterException_entersHandler .systemCall _⟩

/-- Settles O38: the two kinds have one condition each, and the code is not read. -/
theorem trapsRaisedByTrapsAlone : Obligations.TrapsRaisedByTrapsAlone := by
  refine ⟨fun i s => ?breakpoint, fun i s => ?systemCall, fun _ _ _ => ⟨rfl, rfl⟩⟩
  case breakpoint =>
    rw [raises_iff_raiseCondition]
    exact ⟨fun | .brk code => ⟨code, rfl⟩, fun ⟨code, hi⟩ => hi ▸ .brk code⟩
  case systemCall =>
    rw [raises_iff_raiseCondition]
    exact ⟨fun | .syscall code => ⟨code, rfl⟩, fun ⟨code, hi⟩ => hi ▸ .syscall code⟩

end Sys2Proof.Proofs
end

section
/-! The statements of 60_exceptions.md about instructions that raise, entry and return. -/

namespace Sys2Proof.Proofs

open Sys2Proof.Machine Sys2Proof.Claims

/-- Settles O17: IntegerOverflow has one condition, on the intermediates of three instructions. -/
theorem integerOverflowExactlyFromThree : Obligations.IntegerOverflowExactlyFromThree := by
  refine ⟨fun i s => ?_, fun i s t raises executed => ?_⟩
  · simp only [raises_iff_raiseCondition, ← signExtend_signedImm, ← overflows_iff_bits_differ]
    constructor
    · intro condition
      cases condition with
      | overflow tested differ =>
        cases tested with
        | add rs rt rd => exact .inl ⟨rs, rt, rd, rfl, differ⟩
        | sub rs rt rd => exact .inr (.inl ⟨rs, rt, rd, rfl, differ⟩)
        | addi rs rt imm => exact .inr (.inr ⟨rs, rt, imm, rfl, differ⟩)
    · rintro (⟨rs, rt, rd, rfl, differ⟩ | ⟨rs, rt, rd, rfl, differ⟩ | ⟨rs, rt, imm, rfl, differ⟩)
      · exact .overflow (.add rs rt rd) differ
      · exact .overflow (.sub rs rt rd) differ
      · exact .overflow (.addi rs rt imm) differ
  · cases (exec_of_raises raises).symm.trans executed
    exact State.enterException_x s _ _

/-- Settles O39: what wrote the record was an entry, of a kind that has a condition. -/
theorem everyKindSavesItsAddress : Obligations.EveryKindSavesItsAddress := by
  intro i s t r executed recorded
  obtain ⟨atInstr, condition⟩ := raiseCondition_of_recorded executed recorded
  cases (exec_of_raiseCondition condition.forgetException).symm.trans executed
  refine ⟨atInstr, State.enterException_pc _ _ _, ?_⟩
  rw [State.enterException_epc]
  generalize r.kind = kind at condition ⊢
  cases condition with
  | overflow => exact .inl ⟨rfl, rfl⟩
  | misaligned => exact .inr (.inl ⟨_, _, rfl, rfl⟩)
  | brk => exact .inr (.inr (.inl ⟨rfl, rfl⟩))
  | syscall => exact .inr (.inr (.inr ⟨rfl, rfl⟩))

/-- Settles O40, by what entry keeps. -/
theorem entryLeavesRegistersAndMemory : Obligations.EntryLeavesRegistersAndMemory := by
  intro s k v
  obtain ⟨gprs, hiLo, memory⟩ := s.enterException_keeps k v
  exact ⟨gprs, hiLo, memory, s.enterException_epc k v⟩

/-- Settles O41: an instruction that raises, and an interrupt, enter the handler alone, and ERET undoes that but for pc
and CP0. -/
theorem returnResumesOrRepeats : Obligations.ReturnResumesOrRepeats := by
  refine ⟨fun i s k raises => ?_, fun s => eret_after_enterException s .interrupt s.pc⟩
  obtain ⟨u, returned, pc, keeps⟩ := eret_after_enterException s k (s.savedPc k)
  exact ⟨_, u, exec_of_raises raises, returned, pc.trans (s.savedPc_eq_ite k), keeps⟩

end Sys2Proof.Proofs
end

section
/-! SUPPORT. How a step of 60_exceptions.md begins: the IRQ oracle and an interrupt taken (R232), the fetch that faults
(R243), and the faults of executing an instruction (20_memory.md R49, R50). -/

namespace Sys2Proof.Machine

open Sys2Proof.Claims

/-! ## The IRQ oracle (R232) -/

theorem IrqOracle.rest_iterate_never (n : Nat) : IrqOracle.rest^[n] .never = .never := Function.iterate_fixed rfl n

/-- Each answer taken from a cycle turns it by one place. -/
theorem IrqOracle.rest_repeating (cycle : List Bool) :
    IrqOracle.rest (.repeating cycle) = .repeating (cycle.rotate 1) := by
  cases cycle with
  | nil => rfl
  | cons b later => simp [IrqOracle.rest]

theorem IrqOracle.rest_iterate_repeating (n : Nat) (cycle : List Bool) :
    IrqOracle.rest^[n] (.repeating cycle) = .repeating (cycle.rotate n) := by
  induction n with
  | zero => simp
  | succ n ih => rw [Function.iterate_succ_apply', ih, IrqOracle.rest_repeating, List.rotate_rotate]

theorem IrqOracle.rest_iterate_unknown (n m : Nat) : IrqOracle.rest^[n] (.unknown m) = .unknown (m + n) := by
  induction n with
  | zero => rfl
  | succ n ih => rw [Function.iterate_succ_apply', ih, IrqOracle.rest, Nat.add_assoc]

/-- A turned cycle answers with the entry the turn has reached; an empty one does not deliver. -/
theorem IrqOracle.delivers_rotate (cycle : List Bool) (n : Nat) :
    IrqOracle.delivers (.repeating (cycle.rotate n)) = cycle.getD (n % cycle.length) false := by
  by_cases empty : cycle = []
  · simp [empty, IrqOracle.delivers]
  · have reached : n % cycle.length < cycle.length := Nat.mod_lt _ (List.length_pos_iff.mpr empty)
    rw [IrqOracle.delivers, ← List.rotate_mod, List.head?_rotate reached, List.getD_eq_getElem?_getD]

/-- An interrupt is taken before anything is fetched. -/
theorem step_of_interrupt {s : State} (legal : s.cfg.wellFormed = true) (noFault : s.faultRecord = none)
    (delivered : s.irqDelivers = true) : step s = .next (s.consumeIrq.enterException .interrupt s.pc) := by
  simp [step, legal, noFault, delivered, State.takeInterrupt]

/-! ## Faults of the fetch (R231, R243; 20_memory.md R45, R49, R50) -/

theorem fetchWord_of_misaligned {s : State} (misaligned : s.pc.toNat % 4 ≠ 0) :
    fetchWord s = .error (.fetchMisaligned s.pc) := by
  simp [fetchWord, AccessWidth.misaligned_word_of_mod_four misaligned]

theorem fetchWord_of_not_admitted {s : State} (aligned : s.pc.toNat % 4 = 0)
    (h : Config.inText s.cfg s.pc = false ∨ Config.admitsAccess s.cfg s.pc .word .fetch = false) :
    fetchWord s = .error (.memNotAdmitted .fetch s.pc s.pc) := by
  have refused := Bool.and_eq_false_iff.mpr h
  simp [fetchWord, (AccessWidth.aligned_word_iff _).mpr aligned, refused]

theorem fetchInstr_of_fetchWord_error {s : State} {f : Fault} (h : fetchWord s = .error f) :
    fetchInstr s = .error f := by
  simp [fetchInstr, h]

theorem fetchInstr_of_decode_error {s : State} {w : Word} {e : DecodeError} (hw : fetchWord s = .ok w)
    (he : decode w = .error e) : fetchInstr s = .error (.invalidInstruction s.pc w) := by
  simp [fetchInstr, hw, he]

theorem step_of_fetchInstr_error {s : State} {f : Fault} (h : ReadyToFetch s) (hf : fetchInstr s = .error f) :
    step s = .fault f := by
  obtain ⟨legal, noFault, noInterrupt⟩ := h
  simp [step, legal, noFault, noInterrupt, hf]

/-- A fault leaves the state with the fault recorded (10_state.md R35). -/
theorem advance_of_fault {s : State} {f : Fault} (noFault : s.faultRecord = none) (stepped : step s = .fault f) :
    advance s = { s with faultRecord := some f } := by
  simp [advance, stepped, State.recordFault, noFault]

/-! ## Faults of executing an instruction (40_load.md R100, 41_store.md R110) -/

/-- The loads, each with its width. -/
def Loads (i : Instr) (n : AccessWidth) (base rt : Reg) (offset : BitVec 16) : Prop :=
  (n = .byte ∧ (i = .lb base rt offset ∨ i = .lbu base rt offset)) ∨
  (n = .half ∧ (i = .lh base rt offset ∨ i = .lhu base rt offset)) ∨ (n = .word ∧ i = .lw base rt offset)

/-- The stores, each with its width. -/
def Stores (i : Instr) (n : AccessWidth) (base rt : Reg) (offset : BitVec 16) : Prop :=
  (n = .byte ∧ i = .sb base rt offset) ∨ (n = .half ∧ i = .sh base rt offset) ∨ (n = .word ∧ i = .sw base rt offset)

/-- A byte of the access lies in TEXT (20_memory.md R49). -/
theorem Config.touchesText_iff {c : Config} {a : Word} {n : Nat} :
    Config.touchesText c a n = true ↔ ∃ k, k < n ∧ Config.inText c (a + BitVec.ofNat 32 k) = true := by
  rw [← Bool.not_eq_false, Config.touchesText_eq_false_iff]
  simp only [not_forall, Bool.not_eq_false, exists_prop]

section
variable {i : Instr} {n : AccessWidth} {base rt : Reg} {offset : BitVec 16} {s : State}

theorem exec_of_loads (hi : Loads i n base rt offset) :
    ∃ v, exec i s = loadInto s n (effectiveAddress s base offset) rt v := by
  obtain ⟨rfl, rfl | rfl⟩ | ⟨rfl, rfl | rfl⟩ | ⟨rfl, rfl⟩ := hi <;> exact ⟨_, rfl⟩

theorem exec_of_stores (hi : Stores i n base rt offset) :
    exec i s = storeFrom s n (effectiveAddress s base offset) (s.x rt) := by
  obtain ⟨rfl, rfl⟩ | ⟨rfl, rfl⟩ | ⟨rfl, rfl⟩ := hi <;> rfl

theorem exec_of_load_not_admitted (hi : Loads i n base rt offset)
    (aligned : AccessWidth.aligned n (effectiveAddress s base offset) = true)
    (refused : Config.admitsAccess s.cfg (effectiveAddress s base offset) n .load = false) :
    exec i s = .fault (.memNotAdmitted .load s.pc (effectiveAddress s base offset)) := by
  obtain ⟨v, executed⟩ := exec_of_loads (s := s) hi
  rw [executed, loadInto, if_pos aligned, if_neg (Bool.eq_false_iff.mp refused)]

theorem exec_of_store_to_text (hi : Stores i n base rt offset)
    (aligned : AccessWidth.aligned n (effectiveAddress s base offset) = true)
    (touches : Config.touchesText s.cfg (effectiveAddress s base offset) (AccessWidth.bytes n) = true) :
    exec i s = .fault (.storeToText s.pc (effectiveAddress s base offset)) := by
  rw [exec_of_stores hi, storeFrom, if_pos aligned, if_pos touches]

theorem exec_of_store_not_admitted (hi : Stores i n base rt offset)
    (aligned : AccessWidth.aligned n (effectiveAddress s base offset) = true)
    (outside : Config.touchesText s.cfg (effectiveAddress s base offset) (AccessWidth.bytes n) = false)
    (refused : Config.admitsAccess s.cfg (effectiveAddress s base offset) n .store = false) :
    exec i s = .fault (.memNotAdmitted .store s.pc (effectiveAddress s base offset)) := by
  rw [exec_of_stores hi, storeFrom, if_pos aligned, if_neg (Bool.eq_false_iff.mp outside),
    if_neg (Bool.eq_false_iff.mp refused)]

end

/-- The conditions of R243 under which an access that is aligned faults, TEXT before admission. -/
def FaultCondition (s : State) (i : Instr) (n : AccessWidth) (base rt : Reg) (offset : BitVec 16) (a : Word)
    (f : Fault) : Prop :=
  (f = .memNotAdmitted .load s.pc a ∧ Config.admitsAccess s.cfg a n .load = false ∧ Loads i n base rt offset) ∨
  (((f = .storeToText s.pc a ∧ ∃ k, k < AccessWidth.bytes n ∧ Config.inText s.cfg (a + BitVec.ofNat 32 k) = true) ∨
    (f = .memNotAdmitted .store s.pc a ∧ Config.admitsAccess s.cfg a n .store = false ∧
      ∀ k, k < AccessWidth.bytes n → Config.inText s.cfg (a + BitVec.ofNat 32 k) = false)) ∧
    Stores i n base rt offset)

/-- Executing an instruction faults under its condition and no other. -/
theorem exec_fault_iff (i : Instr) (s : State) (f : Fault) :
    exec i s = .fault f ↔ ∃ base rt offset n a, a = effectiveAddress s base offset ∧ AccessWidth.aligned n a = true ∧
      FaultCondition s i n base rt offset a f := by
  simp only [FaultCondition, ← Config.touchesText_iff, ← Config.touchesText_eq_false_iff]
  constructor
  · intro executed
    have effect : Effect i s (.fault f) := executed ▸ exec_effect i s
    cases effect with
    | loadFaults n base rt offset aligned refused hi =>
      exact ⟨base, rt, offset, n, _, rfl, aligned, .inl ⟨rfl, refused, hi⟩⟩
    | storeFaults n base rt offset _ aligned hf hi =>
      refine ⟨base, rt, offset, n, _, rfl, aligned, .inr ⟨?_, hi⟩⟩
      obtain ⟨rfl, touches⟩ | ⟨rfl, outside, refused⟩ := hf
      · exact .inl ⟨rfl, touches⟩
      · exact .inr ⟨rfl, refused, outside⟩
  · rintro ⟨base, rt, offset, n, _, rfl, aligned,
      ⟨rfl, refused, hi⟩ | ⟨⟨rfl, touches⟩ | ⟨rfl, refused, outside⟩, hi⟩⟩
    · exact exec_of_load_not_admitted hi aligned refused
    · exact exec_of_store_to_text hi aligned touches
    · exact exec_of_store_not_admitted hi aligned outside refused

end Sys2Proof.Machine
end

section
/-! The statements of 60_exceptions.md about interrupts, the CP0 registers and the model faults. -/

namespace Sys2Proof.Proofs

open Sys2Proof.Machine Sys2Proof.Claims

/-- Settles O60: an instruction that raises, and a step that takes an interrupt, enter by the one operation. -/
theorem entryProcessesOtherCp0Registers : Obligations.EntryProcessesOtherCp0Registers := by
  refine ⟨fun s k v _ => s.enterException_cp0Reg_other k v, fun i s k raises => ?_,
    fun s legal noFault delivered => ?_⟩
  · exact ⟨_, exec_of_raises raises, State.enterException_draws _ _ _, fun _ => s.enterException_cp0Reg_other k _⟩
  · exact ⟨_, step_of_interrupt legal noFault delivered, State.enterException_draws _ _ _,
      fun _ => s.consumeIrq.enterException_cp0Reg_other .interrupt _⟩

/-- Settles O42: the entry a step takes instead of its fetch, and each form of the oracle under its own recursion. -/
theorem interruptIsTakenBeforeTheFetch : Obligations.InterruptIsTakenBeforeTheFetch := by
  refine ⟨fun s legal noFault delivered => ?taken, fun _ _ => ⟨rfl, rfl⟩, fun n => ?never, fun n cycle => ?repeating,
    fun n m => ?unknown⟩
  case taken =>
    refine ⟨_, step_of_interrupt legal noFault delivered, ?_⟩
    simp [KeepsGprs, KeepsHiLo, KeepsMemory]
  case never => rw [IrqOracle.rest_iterate_never, IrqOracle.delivers]
  case repeating => rw [IrqOracle.rest_iterate_repeating, IrqOracle.delivers_rotate]
  case unknown => rw [IrqOracle.rest_iterate_unknown, IrqOracle.delivers]

/-- Settles O43: the fetch's tests in their order, the faulting ends of a load or store, and the effect of a division by
zero. -/
theorem faultsHaveTheirConditions : Obligations.FaultsHaveTheirConditions := by
  refine ⟨fun s ready misaligned => ?_, fun s ready aligned refused => ?_, fun s ready fetches noRow => ?_,
    exec_fault_iff, fun s f => advance_of_fault, fun rs rt s zero => ?_⟩
  · exact step_of_fetchInstr_error ready (fetchInstr_of_fetchWord_error (fetchWord_of_misaligned misaligned))
  · exact step_of_fetchInstr_error ready (fetchInstr_of_fetchWord_error (fetchWord_of_not_admitted aligned refused))
  · obtain ⟨e, undecodable⟩ := decode_error_of_matchesNoRow noRow
    exact step_of_fetchInstr_error ready (fetchInstr_of_decode_error (fetchWord_of_fetches fetches) undecodable)
  · exact ⟨_, _, exec_of_divisor_zero zero (.inl ⟨rfl, rfl⟩), exec_of_divisor_zero zero (.inr ⟨rfl, rfl⟩), rfl, rfl⟩

end Sys2Proof.Proofs
end

section
/-! SUPPORT. The program load of one word (70_reset_and_hazards.md R262): it makes the word fetchable, keeps the
configuration legal, and leaves the word's bytes at pc. -/

namespace Sys2Proof.Machine

open Sys2Proof.Claims

/-! ## TEXT with one more word -/

theorem Config.withTextWord_resetPc (c : Config) (a : Word) : (Config.withTextWord c a).resetPc = c.resetPc := by
  unfold Config.withTextWord; split <;> rfl
theorem Config.withTextWord_excHandler (c : Config) (a : Word) :
    (Config.withTextWord c a).excHandler = c.excHandler := by
  unfold Config.withTextWord; split <;> rfl
theorem Config.withTextWord_admits (c : Config) (a : Word) : (Config.withTextWord c a).admits = c.admits := by
  unfold Config.withTextWord; split <;> rfl

/-- The spans of TEXT are the old ones and perhaps the word itself. -/
theorem Config.mem_withTextWord {c : Config} {a : Word} {t : TextSpan} (h : t ∈ (Config.withTextWord c a).text) :
    t ∈ c.text ∨ t = { base := a.toNat, words := 1 } := by
  unfold Config.withTextWord at h
  split at h
  · exact .inl h
  · exact (List.mem_cons.mp h).symm

theorem Config.inText_withTextWord (c : Config) (a : Word) : Config.inText (Config.withTextWord c a) a = true := by
  unfold Config.withTextWord
  split
  next inText => exact inText
  next => simp [Config.inText]

/-! ## MEM_ADMITS with one more fetch -/

theorem Config.withFetchAdmitted_resetPc (c : Config) (a : Word) :
    (Config.withFetchAdmitted c a).resetPc = c.resetPc := by
  unfold Config.withFetchAdmitted; split <;> rfl
theorem Config.withFetchAdmitted_excHandler (c : Config) (a : Word) :
    (Config.withFetchAdmitted c a).excHandler = c.excHandler := by
  unfold Config.withFetchAdmitted; split <;> rfl
theorem Config.withFetchAdmitted_text (c : Config) (a : Word) : (Config.withFetchAdmitted c a).text = c.text := by
  unfold Config.withFetchAdmitted; split <;> rfl

theorem Config.admitsAccess_withFetchAdmitted (c : Config) (a : Word) :
    Config.admitsAccess (Config.withFetchAdmitted c a) a .word .fetch = true := by
  unfold Config.withFetchAdmitted
  split
  next admitted => exact admitted
  next => simp [Config.admitsAccess, Region.admitsAccess, AccessWidth.bytes]

/-- What was admitted still is. -/
theorem Config.admitsAccess_withFetchAdmitted_of_admits {c : Config} {b : Word} {n : AccessWidth} {k : AccessKind}
    (a : Word) (h : Config.admitsAccess c b n k = true) :
    Config.admitsAccess (Config.withFetchAdmitted c a) b n k = true := by
  unfold Config.withFetchAdmitted
  split
  · exact h
  · rw [Config.admitsAccess, List.any_cons, Bool.or_eq_true]
    exact .inr h

/-! ## Both together -/

/-- The configuration after the load of the word at `a`. -/
def Config.withLoadedWord (c : Config) (a : Word) : Config := Config.withFetchAdmitted (Config.withTextWord c a) a

theorem Config.inText_withLoadedWord (c : Config) (a : Word) : Config.inText (Config.withLoadedWord c a) a = true := by
  rw [Config.inText, Config.withLoadedWord, Config.withFetchAdmitted_text]
  exact Config.inText_withTextWord c a

/-- Loading an aligned word keeps the configuration legal (U9, U22): the old spans are fetchable as before, and the new
one is admitted with it. -/
theorem Config.withLoadedWord_wellFormed {c : Config} {a : Word} (legal : c.wellFormed = true)
    (aligned : a.toNat % 4 = 0) : (Config.withLoadedWord c a).wellFormed = true := by
  rw [Config.wellFormed_iff] at legal ⊢
  obtain ⟨resetPc, excHandler, spans⟩ := legal
  simp only [Config.withLoadedWord, Config.withFetchAdmitted_resetPc, Config.withTextWord_resetPc,
    Config.withFetchAdmitted_excHandler, Config.withTextWord_excHandler, Config.withFetchAdmitted_text]
  refine ⟨resetPc, excHandler, fun t ht => ?_⟩
  obtain old | rfl := Config.mem_withTextWord ht
  · obtain ⟨wordAligned, fits, admitted⟩ := spans t old
    refine ⟨wordAligned, fits, fun k hk => Config.admitsAccess_withFetchAdmitted_of_admits a ?_⟩
    rw [Config.admitsAccess, Config.withTextWord_admits]
    exact admitted k hk
  · have fits := a.isLt
    refine ⟨aligned, by simp only; omega, fun k hk => ?_⟩
    obtain rfl : k = 0 := Nat.lt_one_iff.mp hk
    simpa using Config.admitsAccess_withFetchAdmitted (Config.withTextWord c a) a

/-! ## The state after the load -/

theorem State.loadNextWord_cfg (s : State) (w : Word) : (s.loadNextWord w).cfg = Config.withLoadedWord s.cfg s.pc := rfl

theorem State.loadNextWord_pc (s : State) (w : Word) : (s.loadNextWord w).pc = s.pc := State.writeBytes_pc s s.pc w 4

theorem State.loadNextWord_readWord (s : State) (w : Word) :
    (s.loadNextWord w).readWord (s.loadNextWord w).pc = w := by
  have holds : HoldsWord (s.loadNextWord w) s.pc w :=
    fun k hk => State.writeBytes_readByte_inside s s.pc w le_rfl hk
  rw [State.loadNextWord_pc, holds.readWord]

section
variable {s : State} (legal : s.cfg.wellFormed = true) (aligned : s.pc.toNat % 4 = 0) (w : Word)
include aligned

theorem State.loadNextWord_fetches : Fetches (s.loadNextWord w) := by
  rw [Fetches, State.loadNextWord_pc, State.loadNextWord_cfg]
  exact ⟨aligned, Config.inText_withLoadedWord s.cfg s.pc, Config.admitsAccess_withFetchAdmitted _ s.pc⟩

include legal

theorem State.loadNextWord_readyToFetch : ReadyToFetch (s.loadNextWord w) :=
  ⟨Config.withLoadedWord_wellFormed legal aligned, rfl, IrqOracle.withoutNow_delivers s.irq⟩

/-- The next step runs the word loaded. -/
theorem step_loadNextWord {i : Instr} (decoded : decode w = .ok i) :
    step (s.loadNextWord w) = exec i (s.loadNextWord w).consumeIrq := by
  refine step_of_fetchInstr (State.loadNextWord_readyToFetch legal aligned w) (fetchInstr_of_decode ?_ decoded)
  rw [fetchWord_of_fetches (State.loadNextWord_fetches aligned w), State.loadNextWord_readWord]

end

/-- All 32 bits of a word given, the word is loaded. -/
theorem State.withFetchWord_toNat (s : State) (w : Word) : s.withFetchWord 32 w.toNat = s.loadNextWord w := by
  rw [State.withFetchWord, Nat.mod_eq_of_lt w.isLt, BitVec.ofNat_toNat, BitVec.setWidth_eq]

end Sys2Proof.Machine
end

section
/-! The statement of 70_reset_and_hazards.md. -/

namespace Sys2Proof.Proofs

open Sys2Proof.Machine Sys2Proof.Claims

/-- Settles O47: the state after the load is ready, fetches the word, and the word decodes to its instruction. -/
theorem loadedWordRunsNext : Obligations.LoadedWordRunsNext := by
  intro s i legal aligned
  rw [State.withFetchWord_toNat]
  exact step_loadNextWord legal aligned (encode i) (decode_encode i)

end Sys2Proof.Proofs
end
